-- ==== Sys2Proof/Word.lean ====
section
/-! DEFINITION. The byte, the one unit in which hosts and the E416 exchange anything (Section 10). -/

namespace Sys2Proof

/-- One byte on a host port (Section 10). The 8-bit wrapping counts of the part (the epoch, a
generation, a session number) are bytes too: adding one to 255 gives 0 (R3, R43, R65, R166). -/
abbrev Byte := BitVec 8

end Sys2Proof
end

