-- ==== Sys2Proof/Syntax.lean ====
section
/-! DEFINITION. The commands and events of the part: one constructor of `Instr` for each row of
spec/opcode_table.json, with the names of ports and lines they speak of. -/

namespace Sys2Proof

/-- The four host ports (Table 0-1). -/
inductive Port where
  | p0 | p1 | p2 | p3
deriving DecidableEq, Repr

/-- The event lines EV0 to EV3 (R110). -/
inductive EvLine where
  | ev0 | ev1 | ev2 | ev3
deriving DecidableEq, Repr

/-- The output lines OUT0 to OUT3 (R110). -/
inductive OutLine where
  | out0 | out1 | out2 | out3
deriving DecidableEq, Repr

/-- The level of a line or of its pin (R115, R131). -/
inductive Level where
  | low | high
deriving DecidableEq, Repr

/-- One value for each host port. -/
structure PerPort (α : Type) where
  p0 : α
  p1 : α
  p2 : α
  p3 : α
deriving DecidableEq, Repr

/-- One value for each event line. -/
structure PerEv (α : Type) where
  ev0 : α
  ev1 : α
  ev2 : α
  ev3 : α
deriving DecidableEq, Repr

/-- One value for each output line. -/
structure PerOut (α : Type) where
  out0 : α
  out1 : α
  out2 : α
  out3 : α
deriving DecidableEq, Repr

/-- A transaction on a host port, as it stands at the rising edge of nCSn (R158).
`bits` are the levels of SDIn at the rising edges of SCKn, HIGH as true, in order; Machine/Serial.lean
assembles the whole bytes from them.
`fellBeforeNegation` tells that nCSn fell before the last negation of nPRSTn or nRESET: the port then
ignores the transaction to its end (R168, R172), and `bits` are those clocked since that negation.
`executedWithin` tells that the execution event of the port's pending command fell within the
transaction, behind its type byte: a read has then already sent $00 for PENDING (R164). -/
structure Transaction where
  bits : List Bool
  fellBeforeNegation : Bool
  executedWithin : Bool
deriving DecidableEq, Repr

/-- One step of the part: a row of spec/opcode_table.json.

A command of a host reaches the part in two steps. COMMAND_WRITE takes its frame into the response slot
of the port, where its code, host tag and parameter block (the command's operands) wait (R160). The row
of the command itself is its execution event (R162), and its one operand is the port in whose slot the
command waits. The other rows are events of the clock, of the pins, and of local elapsed time. -/
inductive Instr where
  /-- COMMAND_WRITE (R159): nCSn rises on a transaction that is no response read. -/
  | commandWrite (p : Port) (t : Transaction)
  /-- RESPONSE_READ (R164): nCSn rises on a transaction of type $3C. -/
  | responseRead (p : Port) (t : Transaction)
  /-- UNKNOWN_COMMAND (R162): the execution event of a command whose code is assigned to none. -/
  | unknownCommand (p : Port)
  /-- READ_TIME (R12). -/
  | readTime (p : Port)
  /-- LOAD_TIME (R13). -/
  | loadTime (p : Port)
  /-- STEP_TIME (R14). -/
  | stepTime (p : Port)
  /-- SET_RATE (R15). -/
  | setRate (p : Port)
  /-- START_SLEW (R16). -/
  | startSlew (p : Port)
  /-- STOP_SLEW (R17). -/
  | stopSlew (p : Port)
  /-- REFCLK_ADVANCE (R4): one period of REFCLK. -/
  | refclkAdvance
  /-- ELAPSED_TICK (R8): local elapsed time counts the 100 periods that have passed. -/
  | elapsedTick
  /-- SLEW_END (R18). -/
  | slewEnd
  /-- CLAIM_AUTHORITY (R25, R26, R27). -/
  | claimAuthority (p : Port)
  /-- RENEW_AUTHORITY (R28). -/
  | renewAuthority (p : Port)
  /-- RELEASE_AUTHORITY (R29). -/
  | releaseAuthority (p : Port)
  /-- WITHDRAW_CLAIM (R30). -/
  | withdrawClaim (p : Port)
  /-- LEASE_EXPIRY (R31). -/
  | leaseExpiry
  /-- OPEN_DRAFT (R44). -/
  | openDraft (p : Port)
  /-- APPEND (R45, R46). -/
  | append (p : Port)
  /-- ABANDON_DRAFT (R47). -/
  | abandonDraft (p : Port)
  /-- SET_QUOTA (R58). -/
  | setQuota (p : Port)
  /-- SCHEDULE_AT (R69, R70). -/
  | scheduleAt (p : Port)
  /-- SCHEDULE_AFTER (R69, R70). -/
  | scheduleAfter (p : Port)
  /-- RETIME (R84). -/
  | retime (p : Port)
  /-- CANCEL (R85). -/
  | cancel (p : Port)
  /-- QUERY_ENTRY (R86). -/
  | queryEntry (p : Port)
  /-- HOLD_RELEASES (R81). -/
  | holdReleases (p : Port)
  /-- RESUME_RELEASES (R82). -/
  | resumeReleases (p : Port)
  /-- FETCH_HEAD (R100). -/
  | fetchHead (p : Port)
  /-- READ_PAYLOAD (R101). -/
  | readPayload (p : Port)
  /-- DISCARD_HEAD (R102). -/
  | discardHead (p : Port)
  /-- FLUSH_INBOX (R103). -/
  | flushInbox (p : Port)
  /-- SET_INBOX (R104). -/
  | setInbox (p : Port)
  /-- CLAIM_LINE (R111). -/
  | claimLine (p : Port)
  /-- RELEASE_LINE (R112). -/
  | releaseLine (p : Port)
  /-- QUERY_LINES (R114). -/
  | queryLines (p : Port)
  /-- TAKE_CAPTURE (R119). -/
  | takeCapture (p : Port)
  /-- ARM_ALIGN (R122). -/
  | armAlign (p : Port)
  /-- DISARM_ALIGN (R126). -/
  | disarmAlign (p : Port)
  /-- EDGE_RECOGNIZED (R115): the pin of line `l` has gone to `level` and held it for `held` ns. -/
  | edgeRecognized (l : EvLine) (level : Level) (held : Nat)
  /-- DRIVE_LINE (R138). -/
  | driveLine (p : Port)
  /-- PULSE_END (R136): the end of the pulse in flight on line `o`. -/
  | pulseEnd (o : OutLine)
  /-- TAKE_REPORT (R153). -/
  | takeReport (p : Port)
  /-- SET_REPORT_MASK (R148). -/
  | setReportMask (p : Port)
  /-- ATTACH (R166). -/
  | attach (p : Port)
  /-- DETACH (R167). -/
  | detach (p : Port)
  /-- STATUS (R171). -/
  | status (p : Port)
  /-- PORT_RESET (R168): the assertion of nPRSTn. -/
  | portReset (p : Port)
  /-- DEVICE_RESET (R172): the assertion of nRESET, or power-up. -/
  | deviceReset
  /-- RESET_NEGATION (R8, R115): the negation of nRESET, with the levels of the EV pins at that moment. -/
  | resetNegation (pins : PerEv Level)
  /-- PORT_RESET_NEGATION (R168): the negation of nPRSTn. -/
  | portResetNegation (p : Port)
deriving DecidableEq, Repr

end Sys2Proof
end

