-- ==== Sys2Proof/Decode.lean ====
section
/-! DEFINITION. The word decoder the host asks for. spec/opcode_table.json gives no row any bits: the
part is commanded by transactions and pins, not by instruction words. -/

namespace Sys2Proof

/-- The command that the low `nbits` bits of `w` spell by the table's bits. No row of the table has
bits (its rows' "fields" are empty and none has fixed bits), so no word spells one. The bytes of a
command frame are read by the machine itself, in Machine/Frame.lean and Machine/Operands.lean. -/
def decodeTableWord (_nbits _w : Nat) : Option Instr := none

end Sys2Proof
end

