-- ==== Sys2Proof/Config.lean ====
section
/-! DEFINITION. The values the manual leaves open: the constants without a body (free values, which
nothing can evaluate), and the one byte chosen for pool memory that nothing has written. -/

namespace Sys2Proof.Config

/-- The 16-bit field that carries a skipped count of more than 65,535 due times. R75 does not bound
the skipped count of an entry without a remaining count, while its field has two bytes (Tables 5-1
and 10-3) and no rule says what the field then holds. Free value, log entry 6. -/
opaque skippedBeyond : Nat → BitVec 16

/-- Whether an end in local elapsed time that falls together with a lease expiry is taken before it.
The arguments are the draw (a counter of State) and the number of the end (0 the slew, 1 to 4 the
pulses of OUT0 to OUT3). Read only where the queue of commands has not itself ordered the two. The
manual lets either be taken first (R32, R143). Free value, log entry 4. -/
opaque endBeforeLease : Nat → Nat → Bool

/-- What a byte of the block pool reads as before anything has written it. DESIGN CHOICE, log entry 7:
the manual states no contents of the pool after device reset (R62), and no read reaches a byte that no
APPEND has written (R39, R55). -/
def unwrittenByte : Byte := 0

end Sys2Proof.Config
end

