-- ==== Sys2Proof/Machine/State.lean ====
section
/-! DEFINITION. The state of the part, block by block in the order of Figure 0-1's blocks, as plain
data, and its value as device reset leaves it. -/

namespace Sys2Proof.Machine

/-! ### Section 1, the Time Base -/

/-- FREE or SET (R2). -/
inductive TimeState where
  | free | set
deriving DecidableEq, Repr

/-- A point of the schedule: seconds and nanoseconds, no epoch (R1). -/
structure Point where
  sec : Nat
  ns : Nat
deriving DecidableEq, Repr

/-- A stamp: a point together with the epoch it lies in (Table 10-2). -/
structure Stamp where
  epoch : Byte
  point : Point
deriving DecidableEq, Repr

/-- A running slew: its rate in units of 2^-32 ns per REFCLK period, and its end, a point of local
elapsed time (R6). -/
structure Slew where
  rate : Int
  stop : Nat
deriving DecidableEq, Repr

/-- The Time Base (Table 1-2). `now` is the seconds and nanoseconds of Common Time. `periods` counts
the REFCLK periods since local elapsed time last advanced, which R8 implies without naming. -/
structure TimeBase where
  epoch : Byte
  now : Point
  frac : Nat
  timeState : TimeState
  baseRate : Int
  slew : Option Slew
  elapsed : Nat
  periods : Nat
deriving DecidableEq, Repr

/-! ### Section 2, the Time Authority -/

/-- The holder with its lease length in milliseconds and its expiry in local elapsed time (R23). -/
structure Holder where
  port : Port
  lease : Nat
  expiry : Nat
deriving DecidableEq, Repr

/-- An entry of the waiter queue: a port and the lease length it asked for (R23). -/
structure Waiter where
  port : Port
  lease : Nat
deriving DecidableEq, Repr

/-- The Time Authority (Table 2-3); no holder means VACANT, and waiters stand oldest first. -/
structure Authority where
  holder : Option Holder
  waiters : List Waiter
deriving DecidableEq, Repr

/-! ### Section 3, the Message Store -/

/-- The number of a pool block (R39). -/
abbrev BlockNo := Fin 512

/-- The number of a message record or of an entry record (R41, R63). -/
abbrev RecordNo := Fin 128

/-- A handle: a record number and a generation (R43, R65). -/
structure Handle where
  record : RecordNo
  gen : Byte
deriving DecidableEq, Repr

/-- What a DRAFT and a SEALED message record hold (Table 3-2). -/
structure Message where
  sender : Port
  tag : BitVec 16
  length : Nat
  chain : List BlockNo
deriving DecidableEq, Repr

/-- The three states of a message record (R41). A FREE record holds nothing but its generation, and a
DRAFT has reference count 0, so only SEALED carries a count. -/
inductive MessageState where
  | free
  | draft (m : Message)
  | sealed (m : Message) (refs : Nat)
deriving DecidableEq, Repr

/-- A message record (Table 3-2). -/
structure MessageRecord where
  gen : Byte
  content : MessageState
deriving DecidableEq, Repr

/-- The Message Store (Table 3-5). `pool` holds the 16,384 bytes of the block pool in canonical form
(byte `k` of block `b` at address 32·b + k); `freeBlocks` is the free list, `freeRecords` the
free-record queue. -/
structure Store where
  pool : List Host.Cell
  freeBlocks : List BlockNo
  records : Vector MessageRecord 128
  freeRecords : List RecordNo
  charge : PerPort Nat
  quota : PerPort Nat
deriving DecidableEq, Repr

/-! ### Section 4, the Calendar -/

/-- A line action with the width that PULSE alone keeps, in microseconds (Table 4-1). -/
inductive LineAction where
  | turnOn
  | turnOff
  | toggle
  | pulse (width : Nat)
deriving DecidableEq, Repr

/-- What an entry does: DELIVER a message to a set of ports, or act on an output LINE (R64). -/
inductive EntryAction where
  | deliver (targets : PerPort Bool) (message : Handle)
  | line (out : OutLine) (action : LineAction)
deriving DecidableEq, Repr

/-- The cause with which an entry finished (Table 4-1). -/
inductive FinishCause where
  | completed | cancelled | ownerDetached | outOfRange
deriving DecidableEq, Repr

/-- The fields of an ARMED or FINISHED entry (Table 4-1), but its generation and finish cause. The
period is held as given, in seconds and nanoseconds. -/
structure Entry where
  owner : Port
  action : EntryAction
  release : Point
  sequence : BitVec 32
  period : Option Point
  remaining : Option Nat
  occurrences : Nat
  missed : Nat
  notify : Bool
  keep : Bool
  strict : Bool
deriving DecidableEq, Repr

/-- The three states of an entry record (R63). -/
inductive EntryState where
  | free
  | armed (e : Entry)
  | finished (e : Entry) (cause : FinishCause)
deriving DecidableEq, Repr

/-- An entry record: its generation and its content (Table 4-1). -/
structure EntryRecord where
  gen : Byte
  content : EntryState
deriving DecidableEq, Repr

/-- RUNNING or HELD (R81). -/
inductive ReleaseState where
  | running | held
deriving DecidableEq, Repr

/-- The Calendar (Table 4-3). `armed` is the armed list in list order (R67), `freeRecords` the
free-record queue (R66), `nextSequence` the admission sequence counter (R68). -/
structure Calendar where
  records : Vector EntryRecord 128
  armed : List RecordNo
  freeRecords : List RecordNo
  releaseState : ReleaseState
  nextSequence : BitVec 32
deriving DecidableEq, Repr

/-! ### Section 5, the Delivery Unit -/

/-- A delivery record (Table 5-1). -/
structure Delivery where
  message : Handle
  source : Port
  tag : BitVec 16
  length : Nat
  entry : Handle
  occurrence : Nat
  missedBefore : Nat
  release : Point
  delivered : Stamp
  late : Bool
deriving DecidableEq, Repr

/-- OPEN or CLOSED (R92). -/
inductive InboxSetting where
  | accepting | closed
deriving DecidableEq, Repr

/-- An inbox with its two settings, the attention setting ON as true (Table 5-4). -/
structure Inbox where
  records : List Delivery
  setting : InboxSetting
  attention : Bool
deriving DecidableEq, Repr

/-! ### Section 6, the Event Line Unit -/

/-- RISING, FALLING or BOTH (R110). -/
inductive EdgeSelect where
  | rising | falling | both
deriving DecidableEq, Repr

/-- The polarity of a recognized edge (R115). -/
inductive Polarity where
  | rising | falling
deriving DecidableEq, Repr

/-- A capture record (R117). -/
structure Capture where
  stamp : Stamp
  polarity : Polarity
  lostBefore : Nat
deriving DecidableEq, Repr

/-- All that is held for one event line (Table 6-2). `level` is the recognized level. -/
structure EventLine where
  owner : Option Port
  select : EdgeSelect
  compensation : Nat
  level : Level
  captures : List Capture
  drops : Nat
deriving DecidableEq, Repr

/-- STEP or MEASURE (R121). -/
inductive AlignMode where
  | step | measure
deriving DecidableEq, Repr

/-- The align arming (R121). -/
structure Arming where
  mode : AlignMode
  line : EvLine
  target : Point
  guard : Nat
  port : Port
deriving DecidableEq, Repr

/-- The Event Line Unit (Table 6-2): the event lines with their claims, the claims of the output
lines, and the one arming. -/
structure EventUnit where
  lines : PerEv EventLine
  outOwner : PerOut (Option Port)
  arming : Option Arming
deriving DecidableEq, Repr

/-! ### Section 7, the Output Line Unit -/

/-- A pulse in flight: its end in local elapsed time and its return level (R131). -/
structure Pulse where
  stop : Nat
  returnLevel : Level
deriving DecidableEq, Repr

/-- The stage of one output line (Table 7-2). The OUT pin shows the level. -/
structure OutStage where
  level : Level
  pulse : Option Pulse
deriving DecidableEq, Repr

/-! ### Section 8, the Report Queues -/

/-- Why the authority was lost (R33). -/
inductive LossCause where
  | released | expired | detached
deriving DecidableEq, Repr

/-- Why Common Time changed (R10). -/
inductive ChangeCause where
  | load | step | align | wrap
deriving DecidableEq, Repr

/-- Why a slew ended (R19). -/
inductive SlewCause where
  | elapsed | replaced | loaded
deriving DecidableEq, Repr

/-- Why an arming was cancelled (R127). -/
inductive CancelCause where
  | authorityLost | lineReleased
deriving DecidableEq, Repr

/-- A signed offset: negative or positive, and a magnitude (R123). -/
structure Offset where
  negative : Bool
  magnitude : Point
deriving DecidableEq, Repr

/-- Why a target received no record (Table 5-2). -/
inductive FailReason where
  | detached | closed | full
deriving DecidableEq, Repr

/-- Whether an output line's action was driven, or why it was refused (R140, R141). -/
inductive LineOutcome where
  | driven
  | notClaimed
  | otherOwner (owner : Port)
deriving DecidableEq, Repr

/-- The outcome that ENTRY_RELEASED carries (R78): the placed set of a DELIVER occurrence, or whether
a LINE occurrence was driven. -/
inductive ReleaseOutcome where
  | placed (ports : PerPort Bool)
  | line (driven : Bool)
deriving DecidableEq, Repr

/-- The result of an ALIGN_RESULT with what that result carries (R124, R127). -/
inductive AlignResult where
  | stepped (stamp : Stamp) (offset : Offset) (stored : Bool)
  | rejected (stamp : Stamp) (offset : Offset) (stored : Bool)
  | cancelled (cause : CancelCause)
deriving DecidableEq, Repr

/-- The thirteen kinds of report with their fields (Table 8-1). -/
inductive ReportBody where
  | authorityGranted (former : Port) (cause : LossCause) (lease expiry : Nat)
  | authorityLost (lease expiry : Nat) (newHolder : Option Port)
  | timeChanged (old new : Point) (epoch : Byte) (cause : ChangeCause)
  | slewDone (cause : SlewCause) (rate : Int) (remaining : Nat)
  | alignResult (mode : AlignMode) (line : EvLine) (target : Point) (result : AlignResult)
  | offset (line : EvLine) (target : Point) (stamp : Stamp) (polarity : Polarity) (offset : Offset)
      (stored : Bool)
  | entryReleased (entry : Handle) (occurrence : Nat) (release : Point) (skipped : Nat) (late : Bool)
      (outcome : ReleaseOutcome)
  | entryFinished (entry : Handle) (cause : FinishCause) (occurrences missed : Nat)
  | deliveryFailed (entry : Handle) (occurrence : Nat) (release : Point) (late : Bool)
      (failed : List (Port × FailReason))
  | lineRefused (entry : Handle) (occurrence : Nat) (line : OutLine) (action : LineAction)
      (release : Point) (late : Bool) (owner : Option Port)
  | captureReady (line : EvLine) (capture : Capture)
  | quotaChanged (previous new charge : Nat) (issuer : Port)
  | reportsLost (count : Nat) (newest : Stamp)
deriving DecidableEq, Repr

/-- A stored report: its sequence number, its time of cause, its kind and fields (R146). -/
structure Report where
  sequence : BitVec 16
  cause : Stamp
  body : ReportBody
deriving DecidableEq, Repr

/-- The report queue of one port with its mask, its sequence counter and whether its newest report is
an open REPORTS_LOST (Table 8-2). The mask holds, ON as true, the kinds $01 to $0D in order. -/
structure ReportQueue where
  reports : List Report
  mask : Vector Bool 13
  nextSequence : BitVec 16
  lostOpen : Bool
deriving DecidableEq, Repr

/-! ### Section 9, the Host Ports -/

/-- The result codes of Table 10-9. -/
inductive Result where
  | ok | waiting | alreadyHolder | alreadyWaiting | alreadyAttached | alreadyClaimed
  | badFrame | unknownCommand | badParam | range | notAttached
  | notAuthority | notWaiting | notOwner | notDraft | staleHandle | tooLate
  | draftLimit | noRecord | noBlocks | overQuota | tooLong | quotaBelowCharge
  | calendarFull | timeNotSet | past
  | empty | lineHeld | lineNotClaimed | alignBusy | notArmed
deriving DecidableEq, Repr

/-- A taken command: its code, host tag and parameter block (R160). -/
structure Command where
  code : Byte
  tag : Byte
  params : List Byte
deriving DecidableEq, Repr

/-- A response, from its result through its payload (R163, Table 10-7). Its length byte and its CRC
are functions of these. -/
structure Response where
  result : Result
  tag : Byte
  session : Byte
  dropped : Bool
  overwrote : Bool
  reports : Bool
  inbox : Bool
  payload : List Byte
deriving DecidableEq, Repr

/-- The response slot (R160): EMPTY, PENDING with the dropped and overwrote marks, or READY. -/
inductive Slot where
  | empty
  | pending (c : Command) (dropped overwrote : Bool)
  | ready (r : Response)
deriving DecidableEq, Repr

/-- DETACHED or ATTACHED (R166). -/
inductive Session where
  | detached | attached
deriving DecidableEq, Repr

/-- A host port (Table 9-4) with its reset input and its data output: `resetAsserted` is nPRSTn at its
active level, and `sdo` the levels the port drove on SDOn in its last transaction, one for each clock of
SCKn, HIGH as true. -/
structure HostPort where
  session : Session
  sessionNumber : Byte
  slot : Slot
  resetAsserted : Bool
  sdo : List Bool
deriving DecidableEq, Repr

/-! ### The part -/

/-- The state of the part. `resetAsserted` is nRESET at its active level. `departing` names the port
whose session is ending, within that one event only (R156, R169). `draws` and `pending` are the model's own: the number of free
values drawn for an order the manual leaves open, and the commands and events that wait, first in
first out. -/
structure State where
  time : TimeBase
  authority : Authority
  store : Store
  calendar : Calendar
  inboxes : PerPort Inbox
  events : EventUnit
  outputs : PerOut OutStage
  reports : PerPort ReportQueue
  ports : PerPort HostPort
  resetAsserted : Bool
  departing : Option Port
  draws : Nat
  pending : List Instr
deriving DecidableEq, Repr

/-- No fault: the manual gives every event of the part an effect and names none that stops it, so no
command ends in a fault and the type has no constructor. -/
inductive Fault where
deriving DecidableEq, Repr

/-- Why a command may be without a meaning. -/
inductive Refusal where
  /-- Raised by an arm of `exec` whose command has no meaning yet; none is left. Safe: the run stops. -/
  | notModelled (mnemonic : String)
deriving DecidableEq, Repr

/-! ### Device reset -/

/-- The Time Base after nRESET (Table 1-2). -/
def TimeBase.reset : TimeBase :=
  { epoch := 0, now := ⟨0, 0⟩, frac := 0, timeState := .free, baseRate := 0, slew := none,
    elapsed := 0, periods := 0 }

/-- The Time Authority after nRESET (R38). -/
def Authority.reset : Authority := { holder := none, waiters := [] }

/-- The Message Store after nRESET (R62). -/
def Store.reset : Store :=
  { pool := [], freeBlocks := List.finRange 512,
    records := Vector.replicate 128 { gen := 0, content := .free },
    freeRecords := List.finRange 128, charge := ⟨0, 0, 0, 0⟩, quota := ⟨128, 128, 128, 128⟩ }

/-- The Calendar after nRESET (R91). -/
def Calendar.reset : Calendar :=
  { records := Vector.replicate 128 { gen := 0, content := .free }, armed := [],
    freeRecords := List.finRange 128, releaseState := .running, nextSequence := 0 }

/-- An inbox after nRESET and after its port's session end (R108, R109). -/
def Inbox.reset : Inbox := { records := [], setting := .accepting, attention := true }

/-- An unclaimed event line whose recognized level is `level` (R110, R112, R130). -/
def EventLine.unclaimed (level : Level) : EventLine :=
  { owner := none, select := .rising, compensation := 0, level := level, captures := [], drops := 0 }

/-- The Event Line Unit after nRESET (R130). The recognized levels are taken afresh at the negation of
nRESET (R115); until then they are LOW here (DESIGN CHOICE, log entry 2), and nothing reads them. -/
def EventUnit.reset : EventUnit :=
  { lines := ⟨.unclaimed .low, .unclaimed .low, .unclaimed .low, .unclaimed .low⟩,
    outOwner := ⟨none, none, none, none⟩, arming := none }

/-- An unclaimed output line: LOW, no pulse in flight (R131, R144). -/
def OutStage.idle : OutStage := { level := .low, pulse := none }

/-- The report queue of a port after nRESET (R157). -/
def ReportQueue.reset : ReportQueue :=
  { reports := [], mask := Vector.replicate 13 true, nextSequence := 0, lostOpen := false }

/-- A host port after nRESET (R172), with its nPRSTn pin as it is driven. -/
def HostPort.reset (resetAsserted : Bool) : HostPort :=
  { session := .detached, sessionNumber := 0, slot := .empty, resetAsserted := resetAsserted, sdo := [] }

/-- The part as device reset or power-up leaves it, nRESET still asserted and every nPRSTn negated
(log entries 1 and 3). -/
def State.reset : State :=
  { time := .reset
    authority := .reset
    store := .reset
    calendar := .reset
    inboxes := ⟨.reset, .reset, .reset, .reset⟩
    events := .reset
    outputs := ⟨.idle, .idle, .idle, .idle⟩
    reports := ⟨.reset, .reset, .reset, .reset⟩
    ports := ⟨.reset false, .reset false, .reset false, .reset false⟩
    resetAsserted := true
    departing := none
    draws := 0
    pending := [] }

end Sys2Proof.Machine
end

