-- ==== Sys2Proof/Machine/Ops.lean ====
section
/-! DEFINITION. The named operations every block shares: one value of a port or line, points of time,
ends in local elapsed time, the bytes of the block pool, and the tick of local elapsed time. -/

namespace Sys2Proof

/-- The four ports in ascending number. -/
def Port.all : List Port := [.p0, .p1, .p2, .p3]

/-- The output lines in ascending number. -/
def OutLine.all : List OutLine := [.out0, .out1, .out2, .out3]

/-- The event lines in ascending number. -/
def EvLine.all : List EvLine := [.ev0, .ev1, .ev2, .ev3]

/-- The value for one port. -/
def PerPort.get {α : Type} (v : PerPort α) : Port → α
  | .p0 => v.p0
  | .p1 => v.p1
  | .p2 => v.p2
  | .p3 => v.p3

/-- The value for one port replaced. -/
def PerPort.put {α : Type} (v : PerPort α) (p : Port) (x : α) : PerPort α :=
  match p with
  | .p0 => { v with p0 := x }
  | .p1 => { v with p1 := x }
  | .p2 => { v with p2 := x }
  | .p3 => { v with p3 := x }

/-- The value for one event line. -/
def PerEv.get {α : Type} (v : PerEv α) : EvLine → α
  | .ev0 => v.ev0
  | .ev1 => v.ev1
  | .ev2 => v.ev2
  | .ev3 => v.ev3

/-- The value for one event line replaced. -/
def PerEv.put {α : Type} (v : PerEv α) (l : EvLine) (x : α) : PerEv α :=
  match l with
  | .ev0 => { v with ev0 := x }
  | .ev1 => { v with ev1 := x }
  | .ev2 => { v with ev2 := x }
  | .ev3 => { v with ev3 := x }

/-- The value for one output line. -/
def PerOut.get {α : Type} (v : PerOut α) : OutLine → α
  | .out0 => v.out0
  | .out1 => v.out1
  | .out2 => v.out2
  | .out3 => v.out3

/-- The value for one output line replaced. -/
def PerOut.put {α : Type} (v : PerOut α) (o : OutLine) (x : α) : PerOut α :=
  match o with
  | .out0 => { v with out0 := x }
  | .out1 => { v with out1 := x }
  | .out2 => { v with out2 := x }
  | .out3 => { v with out3 := x }

/-- The opposite level. -/
def Level.opposite : Level → Level
  | .low => .high
  | .high => .low

namespace Machine

/-! ### Points of Common Time (Section 1) -/

/-- Nanoseconds in a second. -/
def nsPerSecond : Nat := 1000000000

/-- The last second of the scale (R1). -/
def maxSeconds : Nat := 4294967295

/-- The last point of the schedule, 4,294,967,295 s 999,999,999 ns. -/
def maxPoint : Point := ⟨maxSeconds, 999999999⟩

/-- `a` is at or before `b`, compared on seconds and then on nanoseconds (R1). -/
abbrev Point.atOrBefore (a b : Point) : Prop := a.sec < b.sec ∨ (a.sec = b.sec ∧ a.ns ≤ b.ns)

/-- A point in nanoseconds from 0 s 0 ns. -/
def Point.toNs (a : Point) : Nat := a.sec * nsPerSecond + a.ns

/-- The point so many nanoseconds from 0 s 0 ns: the nanoseconds carried into the seconds. -/
def Point.ofNs (n : Nat) : Point := ⟨n / nsPerSecond, n % nsPerSecond⟩

/-- A point later by another's seconds and nanoseconds, the nanoseconds carried (R14, R69). -/
def Point.plus (a b : Point) : Point := .ofNs (a.toNs + b.toNs)

/-- A point earlier by another's seconds and nanoseconds, the nanoseconds borrowed, and 0 s 0 ns where
it would lie below that (R14, R116). -/
def Point.minus (a b : Point) : Point := .ofNs (a.toNs - b.toNs)

/-- Common Time as a stamp: its epoch, seconds and nanoseconds. -/
def State.stamp (s : State) : Stamp := ⟨s.time.epoch, s.time.now⟩

/-! ### Ends in local elapsed time (R8) -/

/-- Local elapsed time counts modulo 2^48. -/
def elapsedModulus : Nat := 281474976710656

/-- The end that lies `us` microseconds after the local elapsed time `now`. -/
def endAfter (now us : Nat) : Nat := (now + us) % elapsedModulus

/-- The distance forward from `now` to an end, counted modulo 2^48. -/
def distance (now stop : Nat) : Nat := (stop + elapsedModulus - now) % elapsedModulus

/-- Local elapsed time has reached an end: the distance forward to it is zero. -/
abbrev reached (now stop : Nat) : Prop := distance now stop = 0

/-- REFCLK periods in a microsecond of local elapsed time. -/
def periodsPerTick : Nat := 100

/-- One advance of local elapsed time, from its last value to 0. -/
def TimeBase.tick (t : TimeBase) : TimeBase :=
  { t with elapsed := (t.elapsed + 1) % elapsedModulus, periods := t.periods - periodsPerTick }

/-- The advance of local elapsed time that the REFCLK periods taken so far call for, when it has not
been taken. R12 takes Common Time and local elapsed time together, so nothing that reads either falls
between the hundredth period and the tick: the next such event takes the tick first (log entry 5). -/
def TimeBase.settle (t : TimeBase) : TimeBase :=
  if periodsPerTick ≤ t.periods then t.tick else t

/-- The part with an outstanding tick of local elapsed time taken. -/
def State.settleTick (s : State) : State := { s with time := s.time.settle }

/-! ### Ports and sessions -/

/-- The port's session state is ATTACHED. -/
abbrev State.attached (s : State) (p : Port) : Prop := (s.ports.get p).session = .attached

/-- The port holds the Time Authority. -/
abbrev State.isHolder (s : State) (p : Port) : Prop := s.authority.holder.map (·.port) = some p

/-- The port that holds the Time Authority, or none when it is VACANT. -/
def Authority.holderPort (a : Authority) : Option Port := a.holder.map (·.port)

/-- The host port of `p` replaced. -/
def State.putPort (s : State) (p : Port) (x : HostPort) : State := { s with ports := s.ports.put p x }

/-- The response slot of `p` replaced. -/
def State.putSlot (s : State) (p : Port) (x : Slot) : State :=
  s.putPort p { s.ports.get p with slot := x }

/-- The inbox of `p` replaced. -/
def State.putInbox (s : State) (p : Port) (x : Inbox) : State := { s with inboxes := s.inboxes.put p x }

/-- The report queue of `p` replaced. -/
def State.putReports (s : State) (p : Port) (x : ReportQueue) : State :=
  { s with reports := s.reports.put p x }

/-- The stage of output line `o` replaced. -/
def State.putOut (s : State) (o : OutLine) (x : OutStage) : State :=
  { s with outputs := s.outputs.put o x }

/-- Event line `l` replaced. -/
def State.putLine (s : State) (l : EvLine) (x : EventLine) : State :=
  { s with events := { s.events with lines := s.events.lines.put l x } }

/-- The align arming replaced. -/
def State.putArming (s : State) (x : Option Arming) : State :=
  { s with events := { s.events with arming := x } }

/-- The owner of output line `o` replaced in the claim table. -/
def State.putOutOwner (s : State) (o : OutLine) (x : Option Port) : State :=
  { s with events := { s.events with outOwner := s.events.outOwner.put o x } }

/-! ### The bytes of the block pool (R39, R40) -/

/-- The pool byte at an address: the byte listed, or what an unwritten byte reads as. -/
def readByte : List Host.Cell → Nat → Byte
  | [], _ => Config.unwrittenByte
  | (a, b) :: rest, n => if a = n then b else readByte rest n

/-- The pool with one byte written, in canonical form: addresses rising, and no entry equal to what an
unlisted address reads as. -/
def writeByte : List Host.Cell → Nat → Byte → List Host.Cell
  | [], n, x => if x = Config.unwrittenByte then [] else [(n, x)]
  | (a, b) :: rest, n, x =>
    if n < a then
      if x = Config.unwrittenByte then (a, b) :: rest else (n, x) :: (a, b) :: rest
    else if n = a then
      if x = Config.unwrittenByte then rest else (n, x) :: rest
    else (a, b) :: writeByte rest n x

/-- Every address listed is above `low`, addresses rise, and no entry holds the unwritten value. -/
def canonicalFrom : Nat → List Host.Cell → Bool
  | _, [] => true
  | low, (a, b) :: rest => decide (low ≤ a) && decide (b ≠ Config.unwrittenByte) && canonicalFrom (a + 1) rest

/-- The canonical form of the pool. -/
def Memory.wf (m : List Host.Cell) : Bool := canonicalFrom 0 m

/-- Bytes in a block (R39). -/
def blockBytes : Nat := 32

/-- The pool address of payload position `i` of a message with this chain: byte i mod 32 of block
i / 32 of the chain (R40). -/
def payloadAddress (chain : List BlockNo) (i : Nat) : Nat :=
  ((chain[i / blockBytes]?).map (fun b => b.val * blockBytes)).getD 0 + i % blockBytes

/-- The payload bytes from position `offset`, `count` of them (R55). -/
def readPayloadBytes (pool : List Host.Cell) (chain : List BlockNo) (offset count : Nat) : List Byte :=
  (List.range count).map fun i => readByte pool (payloadAddress chain (offset + i))

/-- The pool with bytes written at the payload positions from `offset` on (R46). -/
def writePayloadBytes (chain : List BlockNo) : List Host.Cell → Nat → List Byte → List Host.Cell
  | pool, _, [] => pool
  | pool, offset, b :: rest =>
    writePayloadBytes chain (writeByte pool (payloadAddress chain offset) b) (offset + 1) rest

end Machine

end Sys2Proof
end

