-- ==== Sys2Proof/Machine/Flags.lean ====
section
/-! DEFINITION. The flags and output pins that are functions of the state: the REPORTS and INBOX flags
of a response, the inbox attention condition, nATTNn and the OUT pins. -/

namespace Sys2Proof.Machine

/-- The REPORTS flag: the port's report queue holds at least one report (R152, R163). -/
def State.reportsFlag (s : State) (p : Port) : Bool := !(s.reports.get p).reports.isEmpty

/-- The INBOX flag: the port's inbox holds at least one record, whatever the attention setting (R163). -/
def State.inboxFlag (s : State) (p : Port) : Bool := !(s.inboxes.get p).records.isEmpty

/-- The inbox attention condition: records, and the attention setting ON (R105). -/
def State.inboxAttention (s : State) (p : Port) : Bool := s.inboxFlag p && (s.inboxes.get p).attention

/-- nATTNn is asserted: the port is ATTACHED and has a report or the inbox attention condition (R155). -/
def State.attention (s : State) (p : Port) : Bool :=
  decide (s.attached p) && (s.reportsFlag p || s.inboxAttention p)

/-- The OUT pin of a line is driven to the line's level (R131). -/
def State.outPin (s : State) (o : OutLine) : Level := (s.outputs.get o).level

end Sys2Proof.Machine
end

