-- ==== Sys2Proof/Machine/Operands.lean ====
section
/-! DEFINITION. The parameter block of a command frame: its fields, the codes of named values
(Table 10-1) as a command carries them, and the SCHEDULE block (Table 10-5). -/

namespace Sys2Proof.Machine

/-! ### Fields (R173, R175) -/

/-- Bytes as a number, most significant byte first. -/
def natOfBytes (bs : List Byte) : Nat := bs.foldl (fun n b => n * 256 + b.toNat) 0

/-- The unsigned field of `width` bytes at an offset of a parameter block. -/
def field (ps : List Byte) (offset width : Nat) : Nat := natOfBytes ((ps.drop offset).take width)

/-- The one-byte field at an offset. -/
def byteField (ps : List Byte) (offset : Nat) : Byte := ps.getD offset 0

/-- The point at an offset: seconds, nanoseconds (Table 10-2). -/
def pointField (ps : List Byte) (offset : Nat) : Point := ⟨field ps offset 4, field ps (offset + 4) 4⟩

/-- The rate at an offset: four bytes in two's complement (R173). -/
def rateField (ps : List Byte) (offset : Nat) : Int := (BitVec.ofNat 32 (field ps offset 4)).toInt

/-- A record number as a handle field carries it, none outside 0..127. -/
def recordOf (b : Byte) : Option RecordNo := if h : b.toNat < 128 then some ⟨b.toNat, h⟩ else none

/-- The handle at an offset: record number, generation; none for a record number outside 0..127. -/
def handleField (ps : List Byte) (offset : Nat) : Option Handle :=
  (recordOf (byteField ps offset)).map fun r => ⟨r, byteField ps (offset + 1)⟩

/-! ### Codes of named values in commands (Table 10-1) -/

/-- A port. -/
def portOf (b : Byte) : Option Port :=
  match b.toNat with
  | 0 => some .p0
  | 1 => some .p1
  | 2 => some .p2
  | 3 => some .p3
  | _ => none

/-- One of the eight lines. -/
inductive Line where
  | event (l : EvLine)
  | output (o : OutLine)
deriving DecidableEq, Repr

/-- A line. -/
def lineOf (b : Byte) : Option Line :=
  match b.toNat with
  | 0 => some (.event .ev0)
  | 1 => some (.event .ev1)
  | 2 => some (.event .ev2)
  | 3 => some (.event .ev3)
  | 4 => some (.output .out0)
  | 5 => some (.output .out1)
  | 6 => some (.output .out2)
  | 7 => some (.output .out3)
  | _ => none

/-- A line that must be an event line. -/
def eventLineOf (b : Byte) : Option EvLine :=
  match lineOf b with
  | some (.event l) => some l
  | _ => none

/-- A line that must be an output line. -/
def outLineOf (b : Byte) : Option OutLine :=
  match lineOf b with
  | some (.output o) => some o
  | _ => none

/-- A line action, PULSE with the width given beside it. -/
def actionOf (b : Byte) (width : Nat) : Option LineAction :=
  match b.toNat with
  | 1 => some .turnOn
  | 2 => some .turnOff
  | 3 => some .toggle
  | 4 => some (.pulse width)
  | _ => none

/-- An edge select. -/
def edgeSelectOf (b : Byte) : Option EdgeSelect :=
  match b.toNat with
  | 1 => some .rising
  | 2 => some .falling
  | 3 => some .both
  | _ => none

/-- A level. -/
def levelOf (b : Byte) : Option Level :=
  match b.toNat with
  | 0 => some .low
  | 1 => some .high
  | _ => none

/-- An inbox setting. -/
def inboxSettingOf (b : Byte) : Option InboxSetting :=
  match b.toNat with
  | 0 => some .accepting
  | 1 => some .closed
  | _ => none

/-- An attention or mask setting, ON as true. -/
def settingOf (b : Byte) : Option Bool :=
  match b.toNat with
  | 0 => some false
  | 1 => some true
  | _ => none

/-- The sign of STEP_TIME, back as true. -/
def stepSignOf (b : Byte) : Option Bool :=
  match b.toNat with
  | 0 => some false
  | 1 => some true
  | _ => none

/-- An align mode. -/
def alignModeOf (b : Byte) : Option AlignMode :=
  match b.toNat with
  | 1 => some .step
  | 2 => some .measure
  | _ => none

/-- A target byte: bit n for port Pn; none with no bit set or with one in bits 4 to 7 (R175). -/
def targetsOf (b : Byte) : Option (PerPort Bool) :=
  if b.toNat = 0 ∨ 16 ≤ b.toNat then none
  else some ⟨b.getLsbD 0, b.getLsbD 1, b.getLsbD 2, b.getLsbD 3⟩

/-- The width of a PULSE lies in 1..1,000,000 µs; no other action has a width to check (R70, R138). -/
def LineAction.widthInRange : LineAction → Bool
  | .pulse w => decide (1 ≤ w ∧ w ≤ 1000000)
  | _ => true

/-! ### Ordered checks -/

/-- The first failing row of an ordered table of checks: each row is a condition and the result it
gives when it holds. -/
def firstFailing (checks : List (Bool × Result)) : Option Result :=
  (checks.find? (·.1)).map (·.2)

/-! ### The SCHEDULE parameter block (Table 10-5) -/

/-- Bit 4 of the flags byte: the period is present. -/
def periodPresent (ps : List Byte) : Bool := (byteField ps 9).getLsbD 4

/-- Bit 5 of the flags byte: the remaining count is present. -/
def remainingPresent (ps : List Byte) : Bool := (byteField ps 9).getLsbD 5

/-- The flags byte names no defined flag: a 1 in bit 3, 6 or 7 (R175). -/
def undefinedFlag (ps : List Byte) : Bool :=
  (byteField ps 9).getLsbD 3 || (byteField ps 9).getLsbD 6 || (byteField ps 9).getLsbD 7

/-- The period field: seconds (2), nanoseconds (4). -/
def periodField (ps : List Byte) : Point := ⟨field ps 10 2, field ps 12 4⟩

/-- The kind code is DELIVER. -/
def kindDeliver (ps : List Byte) : Bool := (byteField ps 8).toNat == 1

/-- The kind code is LINE. -/
def kindLine (ps : List Byte) : Bool := (byteField ps 8).toNat == 2

/-- The action an entry is to take, none where a field of its kind holds no assigned value. -/
def entryActionField (ps : List Byte) : Option EntryAction :=
  if kindDeliver ps then
    match targetsOf (byteField ps 18), handleField ps 19 with
    | some ts, some h => some (.deliver ts h)
    | _, _ => none
  else
    match outLineOf (byteField ps 21), actionOf (byteField ps 22) (field ps 23 4) with
    | some o, some a => some (.line o a)
    | _, _ => none

end Sys2Proof.Machine
end

