-- ==== Sys2Proof/Machine/Encode.lean ====
section
/-! DEFINITION. What the part sends: the codes of named values (Tables 10-1 and 10-9), the encodings of
quantities (Tables 10-2 and 10-3), and the records of Tables 10-10 to 10-13. -/

namespace Sys2Proof

/-! ### Codes of ports, lines and levels (Table 10-1) -/

/-- A port. -/
def Port.code : Port → Byte
  | .p0 => 0
  | .p1 => 1
  | .p2 => 2
  | .p3 => 3

/-- An event line. -/
def EvLine.code : EvLine → Byte
  | .ev0 => 0
  | .ev1 => 1
  | .ev2 => 2
  | .ev3 => 3

/-- An output line. -/
def OutLine.code : OutLine → Byte
  | .out0 => 4
  | .out1 => 5
  | .out2 => 6
  | .out3 => 7

/-- A level. -/
def Level.code : Level → Byte
  | .low => 0
  | .high => 1

namespace Machine

/-! ### Quantities -/

/-- A number in `width` bytes, most significant byte first (R173). -/
def be : (width : Nat) → Nat → List Byte
  | 0, _ => []
  | w + 1, v => BitVec.ofNat 8 (v / 256 ^ w) :: be w v

/-- A point, 8 bytes. -/
def Point.bytes (a : Point) : List Byte := be 4 a.sec ++ be 4 a.ns

/-- A stamp, 9 bytes. -/
def Stamp.bytes (a : Stamp) : List Byte := a.epoch :: a.point.bytes

/-- A point of local elapsed time, 6 bytes. -/
def elapsedBytes (e : Nat) : List Byte := be 6 e

/-- A rate, 4 bytes in two's complement. -/
def rateBytes (r : Int) : List Byte := be 4 (BitVec.ofInt 32 r).toNat

/-- A handle, 2 bytes. -/
def Handle.bytes (h : Handle) : List Byte := [BitVec.ofNat 8 h.record.val, h.gen]

/-- A false or true mark. -/
def markByte (b : Bool) : Byte := if b then 1 else 0

/-- A signed offset, 9 bytes: the sign positive $00 or negative $01. -/
def Offset.bytes (o : Offset) : List Byte := markByte o.negative :: o.magnitude.bytes

/-! ### Codes of named values (Table 10-1) -/

/-- A port, or $FF for none and VACANT. -/
def portByte : Option Port → Byte
  | some p => p.code
  | none => 0xFF

/-- A session state. -/
def Session.code : Session → Byte
  | .detached => 0
  | .attached => 1

/-- A time state. -/
def TimeState.code : TimeState → Byte
  | .free => 0
  | .set => 1

/-- A release state. -/
def ReleaseState.code : ReleaseState → Byte
  | .running => 0
  | .held => 1

/-- A line action. -/
def LineAction.code : LineAction → Byte
  | .turnOn => 1
  | .turnOff => 2
  | .toggle => 3
  | .pulse _ => 4

/-- The width an action keeps: that of PULSE, and 0 for an action that keeps none (R70, R173). -/
def LineAction.width : LineAction → Nat
  | .pulse w => w
  | _ => 0

/-- The kind of an entry: DELIVER $01, LINE $02. -/
def EntryAction.kindCode : EntryAction → Byte
  | .deliver _ _ => 1
  | .line _ _ => 2

/-- A finish cause. -/
def FinishCause.code : FinishCause → Byte
  | .completed => 1
  | .cancelled => 2
  | .ownerDetached => 3
  | .outOfRange => 4

/-- An edge select. -/
def EdgeSelect.code : EdgeSelect → Byte
  | .rising => 1
  | .falling => 2
  | .both => 3

/-- A polarity. -/
def Polarity.code : Polarity → Byte
  | .rising => 1
  | .falling => 2

/-- An inbox setting. -/
def InboxSetting.code : InboxSetting → Byte
  | .accepting => 0
  | .closed => 1

/-- An align mode. -/
def AlignMode.code : AlignMode → Byte
  | .step => 1
  | .measure => 2

/-- The cause of a time change. -/
def ChangeCause.code : ChangeCause → Byte
  | .load => 1
  | .step => 2
  | .align => 3
  | .wrap => 4

/-- The cause of a slew's end. -/
def SlewCause.code : SlewCause → Byte
  | .elapsed => 1
  | .replaced => 2
  | .loaded => 3

/-- The cause of a loss of authority. -/
def LossCause.code : LossCause → Byte
  | .released => 1
  | .expired => 2
  | .detached => 3

/-- The reason of a failed target. -/
def FailReason.code : FailReason → Byte
  | .detached => 1
  | .closed => 2
  | .full => 3

/-- The cause of a cancelled arming. -/
def CancelCause.code : CancelCause → Byte
  | .authorityLost => 1
  | .lineReleased => 2

/-- A set of ports as a target byte: bit n for port Pn. -/
def targetByte (ts : PerPort Bool) : Byte :=
  BitVec.ofNat 8 (ts.p0.toNat + 2 * ts.p1.toNat + 4 * ts.p2.toNat + 8 * ts.p3.toNat)

/-- A result (Table 10-9). -/
def Result.code : Result → Byte
  | .ok => 0x00
  | .waiting => 0x01
  | .alreadyHolder => 0x02
  | .alreadyWaiting => 0x03
  | .alreadyAttached => 0x04
  | .alreadyClaimed => 0x05
  | .badFrame => 0x10
  | .unknownCommand => 0x11
  | .badParam => 0x12
  | .range => 0x13
  | .notAttached => 0x14
  | .notAuthority => 0x20
  | .notWaiting => 0x21
  | .notOwner => 0x22
  | .notDraft => 0x23
  | .staleHandle => 0x24
  | .tooLate => 0x25
  | .draftLimit => 0x30
  | .noRecord => 0x31
  | .noBlocks => 0x32
  | .overQuota => 0x33
  | .tooLong => 0x34
  | .quotaBelowCharge => 0x35
  | .calendarFull => 0x38
  | .timeNotSet => 0x39
  | .past => 0x3A
  | .empty => 0x40
  | .lineHeld => 0x48
  | .lineNotClaimed => 0x49
  | .alignBusy => 0x4A
  | .notArmed => 0x4B

/-! ### Records -/

/-- The delivery record header, 29 bytes (Table 10-10): every field but the message handle. -/
def Delivery.header (d : Delivery) : List Byte :=
  [d.source.code] ++ be 2 d.tag.toNat ++ be 2 d.length ++ d.entry.bytes ++ be 2 d.occurrence ++
    be 2 d.missedBefore ++ d.release.bytes ++ d.delivered.bytes ++ [markByte d.late]

/-- A capture record, 11 bytes (Table 10-11). -/
def Capture.bytes (c : Capture) : List Byte :=
  c.stamp.bytes ++ [c.polarity.code, BitVec.ofNat 8 c.lostBefore]

/-- The fields of an align arming as answers carry them: mode, line, target, guard. -/
def Arming.bytes (a : Arming) : List Byte :=
  [a.mode.code, a.line.code] ++ a.target.bytes ++ be 4 a.guard

/-- The kind code of a report, $01 to $0D (Table 10-13). -/
def ReportBody.kind : ReportBody → Fin 13
  | .authorityGranted .. => 0
  | .authorityLost .. => 1
  | .timeChanged .. => 2
  | .slewDone .. => 3
  | .alignResult .. => 4
  | .offset .. => 5
  | .entryReleased .. => 6
  | .entryFinished .. => 7
  | .deliveryFailed .. => 8
  | .lineRefused .. => 9
  | .captureReady .. => 10
  | .quotaChanged .. => 11
  | .reportsLost .. => 12

/-- The result and cancel cause bytes of an ALIGN_RESULT (Table 10-13). -/
def AlignResult.codes : AlignResult → List Byte
  | .stepped .. => [1, 0]
  | .rejected .. => [2, 0]
  | .cancelled c => [3, c.code]

/-- The stamp, offset and stored mark of an ALIGN_RESULT, zero bytes for CANCELLED. -/
def AlignResult.edgeBytes : AlignResult → List Byte
  | .stepped t o m => t.bytes ++ o.bytes ++ [markByte m]
  | .rejected t o m => t.bytes ++ o.bytes ++ [markByte m]
  | .cancelled _ => List.replicate 19 0

/-- The outcome byte of ENTRY_RELEASED behind its kind byte (R177). -/
def ReleaseOutcome.bytes : ReleaseOutcome → List Byte
  | .placed ps => [1, targetByte ps]
  | .line driven => [2, if driven then 1 else 2]

/-- The reason and owning-port bytes of LINE_REFUSED (R141, R177). -/
def refusalBytes : Option Port → List Byte
  | none => [1, 0xFF]
  | some q => [2, q.code]

/-- The fields of a report (Table 10-13). -/
def ReportBody.bytes : ReportBody → List Byte
  | .authorityGranted former cause lease expiry =>
    [former.code, cause.code] ++ be 2 lease ++ elapsedBytes expiry
  | .authorityLost lease expiry newHolder => be 2 lease ++ elapsedBytes expiry ++ [portByte newHolder]
  | .timeChanged old new epoch cause => old.bytes ++ new.bytes ++ [epoch, cause.code]
  | .slewDone cause rate remaining => [cause.code] ++ rateBytes rate ++ be 4 remaining
  | .alignResult mode line target result =>
    result.codes ++ [mode.code, line.code] ++ target.bytes ++ result.edgeBytes
  | .offset line target stamp polarity off stored =>
    [line.code] ++ target.bytes ++ stamp.bytes ++ [polarity.code] ++ off.bytes ++ [markByte stored]
  | .entryReleased entry occurrence release skipped late outcome =>
    entry.bytes ++ be 2 occurrence ++ release.bytes ++ be 2 skipped ++ [markByte late] ++ outcome.bytes
  | .entryFinished entry cause occurrences missed =>
    entry.bytes ++ [cause.code] ++ be 2 occurrences ++ be 2 missed
  | .deliveryFailed entry occurrence release late failed =>
    entry.bytes ++ be 2 occurrence ++ release.bytes ++ [markByte late, BitVec.ofNat 8 failed.length] ++
      failed.flatMap fun f => [f.1.code, f.2.code]
  | .lineRefused entry occurrence line action release late owner =>
    entry.bytes ++ be 2 occurrence ++ [line.code, action.code] ++ release.bytes ++ [markByte late] ++
      refusalBytes owner
  | .captureReady line capture => [line.code] ++ capture.bytes
  | .quotaChanged previous new charge issuer =>
    be 2 previous ++ be 2 new ++ be 2 charge ++ [issuer.code]
  | .reportsLost count newest => be 2 count ++ newest.bytes

/-- A report record: the header of Table 10-12, then the fields of its kind. -/
def Report.bytes (r : Report) : List Byte :=
  [BitVec.ofNat 8 (r.body.kind.val + 1)] ++ be 2 r.sequence.toNat ++ r.cause.bytes ++ r.body.bytes

/-- The state byte and the finish cause byte of an entry record (R173: 0 while ARMED). -/
def EntryState.codes : EntryState → Byte × Byte
  | .free => (0, 0)
  | .armed _ => (1, 0)
  | .finished _ c => (2, c.code)

/-- The flags byte of an entry, laid out as in Table 10-5. -/
def Entry.flagsByte (e : Entry) : Byte :=
  BitVec.ofNat 8 (e.notify.toNat + 2 * e.keep.toNat + 4 * e.strict.toNat + 16 * e.period.isSome.toNat +
    32 * e.remaining.isSome.toNat)

/-- The targets and message handle of an entry, zero bytes for LINE (R173). -/
def EntryAction.deliverBytes : EntryAction → List Byte
  | .deliver ts h => targetByte ts :: h.bytes
  | .line _ _ => [0, 0, 0]

/-- The line, action and width of an entry, zero bytes for DELIVER (R173). -/
def EntryAction.lineBytes : EntryAction → List Byte
  | .deliver _ _ => List.replicate 6 0
  | .line o a => [o.code, a.code] ++ be 4 a.width

/-- A period field, zero bytes where the period is absent. -/
def periodBytes : Option Point → List Byte
  | some p => be 2 p.sec ++ be 4 p.ns
  | none => List.replicate 6 0

/-- The payload of QUERY_ENTRY (Table 10-8). -/
def entryBytes (gen : Byte) (st : EntryState) (e : Entry) : List Byte :=
  [st.codes.1, gen, e.owner.code, e.action.kindCode] ++ e.release.bytes ++ be 4 e.sequence.toNat ++
    [e.flagsByte] ++ periodBytes e.period ++ be 2 (e.remaining.getD 0) ++ e.action.deliverBytes ++
    e.action.lineBytes ++ be 2 e.occurrences ++ be 2 e.missed ++ [st.codes.2]

end Machine

end Sys2Proof
end

