-- ==== Sys2Proof/Machine/Frame.lean ====
section
/-! DEFINITION. Frames: the CRC (R174), the judging of a command frame (R159) and the bytes of a
response frame (R176). -/

namespace Sys2Proof.Machine

/-- One shift of the CRC register: left by one, and the polynomial combined in when a 1 was shifted
out (R174). -/
def crcShift (r : BitVec 16) : BitVec 16 := if r.msb then (r <<< 1) ^^^ 0x1021 else r <<< 1

/-- So many shifts of the CRC register. -/
def crcShifts : Nat → BitVec 16 → BitVec 16
  | 0, r => r
  | k + 1, r => crcShifts k (crcShift r)

/-- One byte taken into the CRC register: combined into its upper eight bits, then eight shifts. -/
def crcByte (r : BitVec 16) (b : Byte) : BitVec 16 := crcShifts 8 (r ^^^ (b.setWidth 16 <<< 8))

/-- The CRC over bytes: the register set to $FFFF, then each byte in order (R174). -/
def crc (bs : List Byte) : BitVec 16 := bs.foldl crcByte 0xFFFF

/-- A CRC as it is sent, high byte first. -/
def crcBytes (bs : List Byte) : List Byte := be 2 (crc bs).toNat

/-- The judging of a command frame, from its length byte on: the command of a well-formed frame, none
for a frame that is cut short, has a bad length or a bad CRC. Bytes after the last CRC byte are
ignored (R159). -/
def judgeFrame (frame : List Byte) : Option Command :=
  let length := field frame 0 1
  if frame.length = 0 ∨ frame.length < length + 3 then none
  else if length < 2 ∨ 45 < length then none
  else if (frame.drop (length + 1)).take 2 ≠ crcBytes (frame.take (length + 1)) then none
  else some { code := byteField frame 1, tag := byteField frame 2, params := (frame.take (length + 1)).drop 3 }

/-- The flags byte of a response: bit 0 DROPPED, bit 1 OVERWROTE, bit 2 REPORTS, bit 3 INBOX. -/
def Response.flagsByte (r : Response) : Byte :=
  BitVec.ofNat 8 (r.dropped.toNat + 2 * r.overwrote.toNat + 4 * r.reports.toNat + 8 * r.inbox.toNat)

/-- The bytes of a response frame that its CRC covers: the length byte through the last payload byte. -/
def Response.covered (r : Response) : List Byte :=
  [BitVec.ofNat 8 (4 + r.payload.length), r.result.code, r.tag, r.session, r.flagsByte] ++ r.payload

/-- A response frame, from its length byte through its CRC (Table 10-7). -/
def Response.frame (r : Response) : List Byte := r.covered ++ crcBytes r.covered

end Sys2Proof.Machine
end

