-- ==== Sys2Proof/Machine/Serial.lean ====
section
/-! DEFINITION. The serial side of a host port (R158): the bits of a transaction assembled into whole
bytes, and bytes sent bit by bit, most significant bit first in both directions. -/

namespace Sys2Proof

namespace Machine

/-- The bits of a byte in the order in which they are sent, most significant first (R158). -/
def bitsOf (b : Byte) : List Bool :=
  [b.getLsbD 7, b.getLsbD 6, b.getLsbD 5, b.getLsbD 4, b.getLsbD 3, b.getLsbD 2, b.getLsbD 1, b.getLsbD 0]

/-- The whole bytes that a port counts in the bits clocked: the first bit of a byte is its most
significant, and a byte of which fewer than eight bits have come is discarded (R158). `count` bits of the
byte under way have come before these, and `value` is the number they spell. -/
def shiftIn : List Bool → (count value : Nat) → List Byte
  | [], _, _ => []
  | bit :: rest, count, value =>
    if count = 7 then BitVec.ofNat 8 (2 * value + bit.toNat) :: shiftIn rest 0 0
    else shiftIn rest (count + 1) (2 * value + bit.toNat)

/-- What a port that has these bytes to send drives in the first `clocks` clocks: their bits in order, and
the bits of $FF behind them (R158, R164). A byte cut short is sent as far as it was clocked. -/
def clockedOut (bytes : List Byte) (clocks : Nat) : List Bool :=
  (bytes.flatMap bitsOf ++ List.replicate clocks true).take clocks

end Machine

/-- The whole bytes of a transaction, the transaction type first. -/
def Transaction.bytes (t : Transaction) : List Byte := Machine.shiftIn t.bits 0 0

end Sys2Proof
end

