-- ==== Sys2Proof/WellFormed.lean ====
section
/-! DEFINITION. Which terms of `Instr` stand for a step of their row. Every operand but a transaction
has a type that admits only what the row takes; a transaction belongs to one of two rows by its type. -/

namespace Sys2Proof

/-- The transaction type that begins a command write (R158). -/
def commandWriteType : Byte := 0xC3

/-- The transaction type that begins a response read (R158). -/
def responseReadType : Byte := 0x3C

/-- A RESPONSE_READ is a transaction that begins with $3C. Every other transaction, one with no whole
byte and one that the port ignores by its type among them, comes as a COMMAND_WRITE (R158). -/
def Instr.wellFormed : Instr → Bool
  | .commandWrite _ t => t.bytes.head? != some responseReadType
  | .responseRead _ t => t.bytes.head? == some responseReadType
  | _ => true

end Sys2Proof
end

