-- ==== Sys2Proof/Machine/HostPorts.lean ====
section
/-! DEFINITION. The Host Ports (Section 9): transactions, the response slot, and the execution event
of a pending command, which every command's meaning shares. -/

namespace Sys2Proof.Machine

/-! ### Transactions and the slot -/

/-- The port takes the transaction: neither reset input is asserted, and nCSn fell after the last
negation of one (R158, R168, R172). -/
abbrev State.takes (s : State) (p : Port) (t : Transaction) : Prop :=
  s.resetAsserted = false ∧ (s.ports.get p).resetAsserted = false ∧ t.fellBeforeNegation = false

/-- What the port drives on SDOn in a transaction to which it answers nothing: the bits of $FF throughout,
and nothing (high impedance) while a reset input is asserted (R158, R168, R172). -/
def State.ignoredSdo (s : State) (p : Port) (t : Transaction) : List Bool :=
  if s.resetAsserted = true ∨ (s.ports.get p).resetAsserted = true then []
  else clockedOut [] t.bits.length

/-- The transaction changes nothing but what the port sent on SDOn. -/
def ignoreTransaction (p : Port) (t : Transaction) (s : State) : State :=
  s.putPort p { s.ports.get p with sdo := s.ignoredSdo p t }

/-- The response BAD_FRAME: host tag 0, DROPPED clear, no payload (R161). -/
def badFrameResponse (s : State) (p : Port) (overwrote : Bool) : Response :=
  { result := .badFrame, tag := 0, session := (s.ports.get p).sessionNumber, dropped := false,
    overwrote := overwrote, reports := s.reportsFlag p, inbox := s.inboxFlag p, payload := [] }

/-- The slot after the arrival of a well-formed frame (R160). -/
def Slot.takeFrame (c : Command) : Slot → Slot
  | .empty => .pending c false false
  | .pending c' _ overwrote => .pending c' true overwrote
  | .ready _ => .pending c false true

/-- The slot after the arrival of a bad frame, given the response for a clear and a set OVERWROTE
(R161). -/
def Slot.takeBadFrame (fresh overwriting : Response) : Slot → Slot
  | .empty => .ready fresh
  | .pending c' _ overwrote => .pending c' true overwrote
  | .ready _ => .ready overwriting

/-- The slot after the arrival of a frame, judged at the rising edge of nCSn (R159). -/
def arrival (s : State) (p : Port) (frame : List Byte) : Slot :=
  match judgeFrame frame with
  | some c => (s.ports.get p).slot.takeFrame c
  | none => (s.ports.get p).slot.takeBadFrame (badFrameResponse s p false) (badFrameResponse s p true)

/-- COMMAND_WRITE (R158 to R161): a transaction whose type is $C3 brings a frame; one of any other type,
or without a whole byte, is ignored. The port sends $FF throughout. -/
def execCommandWrite (p : Port) (t : Transaction) (s : State) : Host.Outcome State Fault Refusal :=
  match t.bytes with
  | type :: frame =>
    if s.takes p t ∧ type = commandWriteType then
      .next (s.putPort p { s.ports.get p with slot := arrival s p frame, sdo := s.ignoredSdo p t })
    else .next (ignoreTransaction p t s)
  | [] => .next (ignoreTransaction p t s)

/-- What a response read sends behind the type byte, $FF for every byte beyond it (R164). The slot is
PENDING when the type byte is received if it is so at the end of the read, or if the execution event of
its command fell within the read; the read of a response made within it sends the $00 of PENDING. -/
def Slot.answer (executedWithin : Bool) : Slot → List Byte
  | .empty => [0xFF]
  | .pending _ _ _ => [0x00]
  | .ready r => if executedWithin then [0x00] else 0x5A :: r.frame

/-- The slot after a response read that clocked `count` bytes behind the type byte: READY becomes EMPTY
when the last CRC byte was clocked out whole (R164). A response made within the read waits. -/
def Slot.afterRead (executedWithin : Bool) (count : Nat) : Slot → Slot
  | .ready r => if executedWithin = false ∧ r.frame.length + 1 ≤ count then .empty else .ready r
  | x => x

/-- RESPONSE_READ (R164): a transaction whose type is $3C. The port sends $FF during the type byte (R158). -/
def execResponseRead (p : Port) (t : Transaction) (s : State) : Host.Outcome State Fault Refusal :=
  match t.bytes with
  | type :: rest =>
    if s.takes p t ∧ type = responseReadType then
      .next (s.putPort p { s.ports.get p with
        slot := (s.ports.get p).slot.afterRead t.executedWithin rest.length
        sdo := clockedOut (0xFF :: (s.ports.get p).slot.answer t.executedWithin) t.bits.length })
    else .next (ignoreTransaction p t s)
  | [] => .next (ignoreTransaction p t s)

/-! ### Table 10-6 -/

/-- A row of Table 10-6: the command's code and the defined length of its parameter block, whether it
needs the Time Authority (Table 2-2), and whether a detached port may issue it (R162). -/
structure CommandRow where
  code : Byte
  length : Nat
  needsAuthority : Bool
  anySession : Bool
deriving DecidableEq, Repr

namespace Row

/-- READ_TIME. -/
def readTime : CommandRow := ⟨0x01, 0, false, true⟩
/-- LOAD_TIME. -/
def loadTime : CommandRow := ⟨0x02, 8, true, false⟩
/-- STEP_TIME. -/
def stepTime : CommandRow := ⟨0x03, 9, true, false⟩
/-- SET_RATE. -/
def setRate : CommandRow := ⟨0x04, 4, true, false⟩
/-- START_SLEW. -/
def startSlew : CommandRow := ⟨0x05, 8, true, false⟩
/-- STOP_SLEW. -/
def stopSlew : CommandRow := ⟨0x06, 0, true, false⟩
/-- CLAIM_AUTHORITY. -/
def claimAuthority : CommandRow := ⟨0x10, 2, false, false⟩
/-- RENEW_AUTHORITY. -/
def renewAuthority : CommandRow := ⟨0x11, 0, false, false⟩
/-- RELEASE_AUTHORITY. -/
def releaseAuthority : CommandRow := ⟨0x12, 0, false, false⟩
/-- WITHDRAW_CLAIM. -/
def withdrawClaim : CommandRow := ⟨0x13, 0, false, false⟩
/-- OPEN_DRAFT. -/
def openDraft : CommandRow := ⟨0x20, 2, false, false⟩
/-- APPEND. -/
def append : CommandRow := ⟨0x21, 3, false, false⟩
/-- ABANDON_DRAFT. -/
def abandonDraft : CommandRow := ⟨0x22, 2, false, false⟩
/-- SET_QUOTA. -/
def setQuota : CommandRow := ⟨0x23, 3, true, false⟩
/-- SCHEDULE_AT. -/
def scheduleAt : CommandRow := ⟨0x30, 27, false, false⟩
/-- SCHEDULE_AFTER. -/
def scheduleAfter : CommandRow := ⟨0x31, 27, false, false⟩
/-- RETIME. -/
def retime : CommandRow := ⟨0x32, 10, false, false⟩
/-- CANCEL. -/
def cancel : CommandRow := ⟨0x33, 2, false, false⟩
/-- QUERY_ENTRY. -/
def queryEntry : CommandRow := ⟨0x34, 2, false, false⟩
/-- HOLD_RELEASES. -/
def holdReleases : CommandRow := ⟨0x35, 0, true, false⟩
/-- RESUME_RELEASES. -/
def resumeReleases : CommandRow := ⟨0x36, 0, true, false⟩
/-- FETCH_HEAD. -/
def fetchHead : CommandRow := ⟨0x40, 0, false, false⟩
/-- READ_PAYLOAD. -/
def readPayload : CommandRow := ⟨0x41, 3, false, false⟩
/-- DISCARD_HEAD. -/
def discardHead : CommandRow := ⟨0x42, 0, false, false⟩
/-- FLUSH_INBOX. -/
def flushInbox : CommandRow := ⟨0x43, 0, false, false⟩
/-- SET_INBOX. -/
def setInbox : CommandRow := ⟨0x44, 2, false, false⟩
/-- CLAIM_LINE. -/
def claimLine : CommandRow := ⟨0x50, 4, false, false⟩
/-- RELEASE_LINE. -/
def releaseLine : CommandRow := ⟨0x51, 1, false, false⟩
/-- QUERY_LINES. -/
def queryLines : CommandRow := ⟨0x52, 0, false, false⟩
/-- TAKE_CAPTURE. -/
def takeCapture : CommandRow := ⟨0x53, 1, false, false⟩
/-- ARM_ALIGN. -/
def armAlign : CommandRow := ⟨0x54, 14, true, false⟩
/-- DISARM_ALIGN. -/
def disarmAlign : CommandRow := ⟨0x55, 0, true, false⟩
/-- DRIVE_LINE. -/
def driveLine : CommandRow := ⟨0x58, 6, false, false⟩
/-- TAKE_REPORT. -/
def takeReport : CommandRow := ⟨0x60, 0, false, false⟩
/-- SET_REPORT_MASK. -/
def setReportMask : CommandRow := ⟨0x61, 13, false, false⟩
/-- ATTACH. -/
def attach : CommandRow := ⟨0x70, 0, false, true⟩
/-- DETACH. -/
def detach : CommandRow := ⟨0x71, 0, false, false⟩
/-- STATUS. -/
def status : CommandRow := ⟨0x72, 0, false, true⟩

end Row

/-- Table 10-6. -/
def commandTable : List CommandRow :=
  [Row.readTime, Row.loadTime, Row.stepTime, Row.setRate, Row.startSlew, Row.stopSlew,
    Row.claimAuthority, Row.renewAuthority, Row.releaseAuthority, Row.withdrawClaim,
    Row.openDraft, Row.append, Row.abandonDraft, Row.setQuota,
    Row.scheduleAt, Row.scheduleAfter, Row.retime, Row.cancel, Row.queryEntry, Row.holdReleases,
    Row.resumeReleases, Row.fetchHead, Row.readPayload, Row.discardHead, Row.flushInbox, Row.setInbox,
    Row.claimLine, Row.releaseLine, Row.queryLines, Row.takeCapture, Row.armAlign, Row.disarmAlign,
    Row.driveLine, Row.takeReport, Row.setReportMask, Row.attach, Row.detach, Row.status]

/-! ### The execution event -/

/-- A command's result and the payload its rule gives for that result. -/
structure Answer where
  result : Result
  payload : List Byte
deriving DecidableEq, Repr

/-- The state a command leaves and its answer. -/
structure Reply where
  state : State
  answer : Answer

/-- A refusal: no effect, and a result without payload (R176). -/
def refuse (s : State) (r : Result) : Reply := ⟨s, r, []⟩

/-- A command carried out: OK with a payload. -/
def okay (s : State) (payload : List Byte) : Reply := ⟨s, .ok, payload⟩

/-- The response frame of a command, built from the state at the end of its execution event (R163). -/
def State.response (s : State) (p : Port) (tag : Byte) (dropped overwrote : Bool) (a : Answer) : Response :=
  { result := a.result, tag := tag, session := (s.ports.get p).sessionNumber, dropped := dropped,
    overwrote := overwrote, reports := s.reportsFlag p, inbox := s.inboxFlag p, payload := a.payload }

/-- The slot becomes READY with the response of the command (R163). -/
def complete (p : Port) (tag : Byte) (dropped overwrote : Bool) (r : Reply) : State :=
  r.state.putSlot p (.ready (r.state.response p tag dropped overwrote r.answer))

/-- The checks that come before a command's own rule, in their order: the session (R162), the
authority (R36), the length of the parameter block (R162); then the command's own rule. -/
def gate (row : CommandRow) (p : Port) (params : List Byte) (body : State → Reply) (s : State) : Reply :=
  if row.anySession = false ∧ ¬ s.attached p then refuse s .notAttached
  else if row.needsAuthority = true ∧ ¬ s.isHolder p then refuse s .notAuthority
  else if params.length < row.length then refuse s .badParam
  else body s

/-- The execution event of the command of `row` at port `p`: the pending command of that code is carried
out against the state as it stands, and its response made READY. A port whose slot holds no pending
command of that code has no such event, and nothing changes (log entry 8). -/
def execution (row : CommandRow) (body : Port → List Byte → State → Reply) (p : Port) (s : State) :
    Host.Outcome State Fault Refusal :=
  match (s.ports.get p).slot with
  | .pending c dropped overwrote =>
    if c.code = row.code then
      .next (complete p c.tag dropped overwrote (gate row p c.params (body p c.params) s.settleTick))
    else .next s
  | _ => .next s

/-- UNKNOWN_COMMAND (R162): the execution event of a pending command whose code no row of Table 10-6
assigns, refused before the session check. -/
def execUnknownCommand (p : Port) (s : State) : Host.Outcome State Fault Refusal :=
  match (s.ports.get p).slot with
  | .pending c dropped overwrote =>
    if c.code ∈ commandTable.map (·.code) then .next s
    else .next (complete p c.tag dropped overwrote (refuse s.settleTick .unknownCommand))
  | _ => .next s

end Sys2Proof.Machine
end

