-- ==== Sys2Proof/Machine/Reports.lean ====
section
/-! DEFINITION. The Report Queues (Section 8): storing a report, TAKE_REPORT and SET_REPORT_MASK. -/

namespace Sys2Proof.Machine

/-- Reports that a queue holds at most (R145). -/
def reportCapacity : Nat := 16

/-- An arriving report folded into a REPORTS_LOST: its count rises by one, stopping at 65,535, and its
time of the newest report lost is the arriving report's time of cause (R149). -/
def Report.fold (cause : Stamp) (r : Report) : Report :=
  match r.body with
  | .reportsLost count _ => { r with body := .reportsLost (min 65535 (count + 1)) cause }
  | _ => r

/-- The newest report of a queue with an arriving report folded into it. -/
def foldNewest (cause : Stamp) : List Report → List Report
  | [] => []
  | [r] => [r.fold cause]
  | r :: rest => r :: foldNewest cause rest

/-- A report stored at the tail with the counter's present value, which then advances (R145). -/
def ReportQueue.store (q : ReportQueue) (cause : Stamp) (body : ReportBody) : ReportQueue :=
  { q with reports := q.reports ++ [⟨q.nextSequence, cause, body⟩], nextSequence := q.nextSequence + 1 }

/-- The placing of a report that arrives for an attached port: the mask (R148), then the room (R149). -/
def ReportQueue.offer (q : ReportQueue) (cause : Stamp) (body : ReportBody) : ReportQueue :=
  if q.mask[body.kind] = false then q
  else if q.lostOpen then { q with reports := foldNewest cause q.reports }
  else if q.reports.length < reportCapacity - 1 then q.store cause body
  else { q.store cause (.reportsLost 1 cause) with lostOpen := true }

/-- A report caused for port `p` with its time of cause. It is discarded when the port is DETACHED, or
when its session is ending (R147, R156). -/
def report (p : Port) (cause : Stamp) (body : ReportBody) (s : State) : State :=
  if s.attached p ∧ s.departing ≠ some p then s.putReports p ((s.reports.get p).offer cause body) else s

/-- A report whose time of cause is Common Time as it stands. -/
def reportNow (p : Port) (body : ReportBody) (s : State) : State := report p s.stamp body s

/-- A report for the port that holds the Time Authority, and for none when it is VACANT (R18). -/
def reportHolder (body : ReportBody) (s : State) : State :=
  match s.authority.holder with
  | some h => reportNow h.port body s
  | none => s

/-- The queue of a port at its session's end: emptied, every kind ON, the counter as it stands (R156). -/
def ReportQueue.ended (q : ReportQueue) : ReportQueue := { ReportQueue.reset with nextSequence := q.nextSequence }

/-- TAKE_REPORT (R153): the head report removed and returned; an open REPORTS_LOST is closed (R150). -/
def takeReport (p : Port) (_ : List Byte) (s : State) : Reply :=
  match (s.reports.get p).reports with
  | [] => refuse s .empty
  | r :: rest =>
    okay (s.putReports p { s.reports.get p with reports := rest, lostOpen := false })
      (BitVec.ofNat 8 rest.length :: r.bytes)

/-- TAKE_REPORT. -/
def execTakeReport (p : Port) (s : State) : Host.Outcome State Fault Refusal :=
  execution Row.takeReport takeReport p s

/-- The settings of thirteen setting bytes, one for each kind, ON as true. -/
def maskField (ps : List Byte) : Vector Bool 13 :=
  #v[byteField ps 0 == 1, byteField ps 1 == 1, byteField ps 2 == 1, byteField ps 3 == 1,
    byteField ps 4 == 1, byteField ps 5 == 1, byteField ps 6 == 1, byteField ps 7 == 1,
    byteField ps 8 == 1, byteField ps 9 == 1, byteField ps 10 == 1, byteField ps 11 == 1,
    byteField ps 12 == 1]

/-- SET_REPORT_MASK (R148): a setting byte other than $00 and $01, and REPORTS_LOST OFF, are refused. -/
def setReportMask (p : Port) (ps : List Byte) (s : State) : Reply :=
  let q := s.reports.get p
  if ((ps.take 13).any fun b => (settingOf b).isNone) ∨ settingOf (byteField ps 12) = some false then
    refuse s .badParam
  else
    okay (s.putReports p { q with mask := maskField ps })
      (q.mask.toList.map markByte ++ [BitVec.ofNat 8 q.reports.length])

/-- SET_REPORT_MASK. -/
def execSetReportMask (p : Port) (s : State) : Host.Outcome State Fault Refusal :=
  execution Row.setReportMask setReportMask p s

end Sys2Proof.Machine
end

