-- ==== Sys2Proof/Machine/MessageStore.lean ====
section
/-! DEFINITION. The Message Store (Section 3): drafts, sealing and references, freeing, charge and
quota, with OPEN_DRAFT, APPEND, ABANDON_DRAFT and SET_QUOTA. -/

namespace Sys2Proof.Machine

/-! ### Records and blocks -/

/-- A message record replaced. -/
def Store.putRecord (st : Store) (i : RecordNo) (x : MessageRecord) : Store :=
  { st with records := st.records.set i x }

/-- The content of a message record replaced, its generation kept. -/
def Store.putContent (st : Store) (i : RecordNo) (c : MessageState) : Store :=
  st.putRecord i { st.records[i] with content := c }

/-- The message a record holds, none while FREE. -/
def MessageState.message? : MessageState → Option Message
  | .free => none
  | .draft m => some m
  | .sealed m _ => some m

/-- The record is a DRAFT of the port. -/
def MessageState.isDraftOf (p : Port) : MessageState → Bool
  | .draft m => decide (m.sender = p)
  | _ => false

/-- The message that a handle names, none when the handle is stale: its record FREE, or of another
generation (R43). -/
def Store.named (st : Store) (h : Handle) : Option Message :=
  if st.records[h.record].gen = h.gen then st.records[h.record].content.message? else none

/-- How many drafts a port has (R44). -/
def Store.draftCount (st : Store) (p : Port) : Nat :=
  st.records.toList.countP fun r => r.content.isDraftOf p

/-- Blocks that hold a payload of so many bytes: one for each 32 bytes begun (R40). -/
def blocksFor (length : Nat) : Nat := (length + 31) / blockBytes

/-- A record becomes FREE: its blocks join the free list tail in chain order, its sender's charge falls
by them, and it joins the free-record queue tail (R41, R47, R52). -/
def Store.release (st : Store) (i : RecordNo) (m : Message) : Store :=
  { st.putContent i .free with
    freeBlocks := st.freeBlocks ++ m.chain
    freeRecords := st.freeRecords ++ [i]
    charge := st.charge.put m.sender (st.charge.get m.sender - m.chain.length) }

/-! ### References (R50 to R53) -/

/-- A reference taken on a message: a DRAFT becomes SEALED with count 1, a SEALED count rises (R50). -/
def Store.takeReference (st : Store) (i : RecordNo) : Store :=
  match st.records[i].content with
  | .draft m => st.putContent i (.sealed m 1)
  | .sealed m n => st.putContent i (.sealed m (n + 1))
  | .free => st

/-- A reference dropped: the count falls by one, and the drop of the last frees the message (R51, R52). -/
def Store.dropReference (st : Store) (i : RecordNo) : Store :=
  match st.records[i].content with
  | .sealed m n => if n ≤ 1 then st.release i m else st.putContent i (.sealed m (n - 1))
  | _ => st

/-- A reference taken on a message, in the part. -/
def takeReference (i : RecordNo) (s : State) : State := { s with store := s.store.takeReference i }

/-- A reference dropped, in the part. -/
def dropReference (i : RecordNo) (s : State) : State := { s with store := s.store.dropReference i }

/-! ### OPEN_DRAFT -/

/-- A record taken for a draft: the generation advanced, sender and tag as given, length 0 (R44). -/
def Store.openDraft (st : Store) (p : Port) (tag : BitVec 16) (i : RecordNo) (rest : List RecordNo) : Store :=
  { st.putRecord i { gen := st.records[i].gen + 1, content := .draft ⟨p, tag, 0, []⟩ } with freeRecords := rest }

/-- OPEN_DRAFT (R44): DRAFT_LIMIT at two drafts, NO_RECORD at an empty free-record queue. -/
def openDraft (p : Port) (ps : List Byte) (s : State) : Reply :=
  if 2 ≤ s.store.draftCount p then refuse s .draftLimit
  else
    match s.store.freeRecords with
    | [] => refuse s .noRecord
    | i :: rest =>
      okay { s with store := s.store.openDraft p (BitVec.ofNat 16 (field ps 0 2)) i rest }
        (Handle.bytes ⟨i, s.store.records[i].gen + 1⟩)

/-- OPEN_DRAFT. -/
def execOpenDraft (p : Port) (s : State) : Host.Outcome State Fault Refusal :=
  execution Row.openDraft openDraft p s

/-! ### APPEND -/

/-- The new blocks that `n` bytes need at length `length` (R45). -/
def newBlocks (length n : Nat) : Nat := blocksFor (length + n) - blocksFor length

/-- A draft with the blocks it needs taken from the head of the free list (R46). -/
def Store.grow (st : Store) (m : Message) (blocks : Nat) : Store × Message :=
  ({ st with
      freeBlocks := st.freeBlocks.drop blocks
      charge := st.charge.put m.sender (st.charge.get m.sender + blocks) },
    { m with chain := m.chain ++ st.freeBlocks.take blocks })

/-- APPEND carried out: a new block when one is needed, the bytes written at the end of the payload,
the length raised (R46). -/
def Store.append (st : Store) (i : RecordNo) (m : Message) (data : List Byte) : Store :=
  let (st', m') := st.grow m (newBlocks m.length data.length)
  { st'.putContent i (.draft { m' with length := m.length + data.length }) with
    pool := writePayloadBytes m'.chain st'.pool m.length data }

/-- The draft of the port that a handle names, or the refusal of steps 4, 5a and 5b of Table 3-3. -/
def Store.ownDraft (st : Store) (p : Port) (h : Handle) : Except Result Message :=
  match st.named h with
  | none => .error .staleHandle
  | some m =>
    if m.sender ≠ p then .error .notOwner
    else
      match st.records[h.record].content with
      | .draft m => .ok m
      | _ => .error .notDraft

/-- Steps 6 to 8 of Table 3-3, for `n` bytes onto a draft. An append that needs no block passes the last
two whatever the charge, the quota and the free count. -/
def Store.appendChecks (st : Store) (m : Message) (n : Nat) : Option Result :=
  let need := newBlocks m.length n
  firstFailing [
    (decide (1024 < m.length + n), .tooLong),
    (decide (need ≠ 0 ∧ st.quota.get m.sender < st.charge.get m.sender + need), .overQuota),
    (decide (st.freeBlocks.length < need), .noBlocks)]

/-- APPEND (R45, R46), the checks of Table 3-3 in order. -/
def append (p : Port) (ps : List Byte) (s : State) : Reply :=
  let n := field ps 2 1
  let data := ps.drop 3
  if n < 1 ∨ 32 < n then refuse s .range
  else if n ≠ data.length then refuse s .badParam
  else
    match handleField ps 0 with
    | none => refuse s .range
    | some h =>
      match s.store.ownDraft p h with
      | .error r => refuse s r
      | .ok m =>
        match s.store.appendChecks m n with
        | some r => refuse s r
        | none =>
          let st := s.store.append h.record m data
          okay { s with store := st } (be 2 (m.length + n) ++ be 2 (st.charge.get p))

/-- APPEND. -/
def execAppend (p : Port) (s : State) : Host.Outcome State Fault Refusal :=
  execution Row.append append p s

/-! ### ABANDON_DRAFT -/

/-- ABANDON_DRAFT (R47): steps 3 to 5 of Table 3-3, then the draft is freed. -/
def abandonDraft (p : Port) (ps : List Byte) (s : State) : Reply :=
  match handleField ps 0 with
  | none => refuse s .range
  | some h =>
    match s.store.ownDraft p h with
    | .error r => refuse s r
    | .ok m => okay { s with store := s.store.release h.record m } [BitVec.ofNat 8 m.chain.length]

/-- ABANDON_DRAFT. -/
def execAbandonDraft (p : Port) (s : State) : Host.Outcome State Fault Refusal :=
  execution Row.abandonDraft abandonDraft p s

/-- The drafts of a port abandoned in ascending record number, at its session's end (R61). -/
def Store.abandonDrafts (st : Store) (p : Port) : Store :=
  (List.finRange 128).foldl
    (fun st i =>
      match st.records[i].content with
      | .draft m => if m.sender = p then st.release i m else st
      | _ => st)
    st

/-! ### SET_QUOTA -/

/-- SET_QUOTA (R58, R59): BAD_PARAM, RANGE, QUOTA_BELOW_CHARGE in that order; then the quota is set and
QUOTA_CHANGED goes to the named port. -/
def setQuota (p : Port) (ps : List Byte) (s : State) : Reply :=
  let value := field ps 1 2
  match portOf (byteField ps 0) with
  | none => refuse s .badParam
  | some q =>
    if 512 < value then refuse s .range
    else if value < s.store.charge.get q then refuse s .quotaBelowCharge
    else
      let previous := s.store.quota.get q
      let charge := s.store.charge.get q
      okay (reportNow q (.quotaChanged previous value charge p)
          { s with store := { s.store with quota := s.store.quota.put q value } })
        (be 2 previous ++ be 2 charge)

/-- SET_QUOTA. -/
def execSetQuota (p : Port) (s : State) : Host.Outcome State Fault Refusal :=
  execution Row.setQuota setQuota p s

end Sys2Proof.Machine
end

