-- ==== Sys2Proof/Machine/Inboxes.lean ====
section
/-! DEFINITION. The Delivery Unit (Section 5): placing a DELIVER occurrence, and the inbox commands. -/

namespace Sys2Proof.Machine

/-- Records that an inbox holds at most (R92). -/
def inboxCapacity : Nat := 32

/-- What the Calendar hands on with an occurrence (R74). `skipped` is the skipped count as its field
carries it. -/
structure Occurrence where
  entry : Handle
  owner : Port
  number : Nat
  skipped : Nat
  release : Point
  late : Bool
deriving DecidableEq, Repr

/-- The tests of Table 5-2 in order: why the target receives no record, none when it receives one. -/
def placementTest (s : State) (p : Port) : Option FailReason :=
  if ¬ s.attached p then some .detached
  else if (s.inboxes.get p).setting = .closed then some .closed
  else if inboxCapacity ≤ (s.inboxes.get p).records.length then some .full
  else none

/-- The delivery record of an occurrence, with source port, tag and length read from the message
(R93, R55). -/
def deliveryRecord (s : State) (o : Occurrence) (h : Handle) : Delivery :=
  let m := s.store.records[h.record].content.message?
  { message := h, source := (m.map (·.sender)).getD o.owner, tag := (m.map (·.tag)).getD 0,
    length := (m.map (·.length)).getD 0, entry := o.entry, occurrence := o.number,
    missedBefore := o.skipped, release := o.release, delivered := s.stamp, late := o.late }

/-- An inbox with a record appended at its tail. -/
def Inbox.append (x : Inbox) (d : Delivery) : Inbox := { x with records := x.records ++ [d] }

/-- One target that passed its tests: the record appended, a reference taken (R95). -/
def place (o : Occurrence) (h : Handle) (p : Port) (s : State) : State :=
  takeReference h.record (s.putInbox p ((s.inboxes.get p).append (deliveryRecord s o h)))

/-- How far a placement has come: the state, the ports placed, the failed targets with reasons. -/
structure Placement where
  state : State
  placed : PerPort Bool
  failed : List (Port × FailReason)

/-- One target visited (R95, R96). -/
def visit (o : Occurrence) (h : Handle) (x : Placement) (p : Port) : Placement :=
  match placementTest x.state p with
  | some r => { x with failed := x.failed ++ [(p, r)] }
  | none => { x with state := place o h p x.state, placed := x.placed.put p true }

/-- Every target visited in ascending port number (R95). -/
def placeAll (o : Occurrence) (targets : PerPort Bool) (h : Handle) (s : State) : Placement :=
  (Port.all.filter fun p => targets.get p).foldl (visit o h) ⟨s, ⟨false, false, false, false⟩, []⟩

/-- A DELIVER occurrence: placed target by target, then one DELIVERY_FAILED when a target failed (R97).
The answer is the set of ports placed. -/
def deliverOccurrence (o : Occurrence) (targets : PerPort Bool) (h : Handle) (s : State) :
    State × PerPort Bool :=
  let x := placeAll o targets h s
  if x.failed = [] then (x.state, x.placed)
  else (reportNow o.owner (.deliveryFailed o.entry o.number o.release o.late x.failed) x.state, x.placed)

/-! ### Reading and removing records -/

/-- The payload bytes of the message a record names (R55). -/
def payloadOf (s : State) (d : Delivery) (offset count : Nat) : List Byte :=
  match s.store.records[d.message.record].content.message? with
  | some m => readPayloadBytes s.store.pool m.chain offset count
  | none => []

/-- FETCH_HEAD (R100). -/
def fetchHead (p : Port) (_ : List Byte) (s : State) : Reply :=
  match (s.inboxes.get p).records with
  | [] => refuse s .empty
  | d :: rest =>
    okay s (d.header ++ [BitVec.ofNat 8 (rest.length + 1)] ++ payloadOf s d 0 (min 16 d.length))

/-- FETCH_HEAD. -/
def execFetchHead (p : Port) (s : State) : Host.Outcome State Fault Refusal :=
  execution Row.fetchHead fetchHead p s

/-- READ_PAYLOAD (R101). -/
def readPayload (p : Port) (ps : List Byte) (s : State) : Reply :=
  let offset := field ps 0 2
  let count := field ps 2 1
  if count < 1 ∨ 32 < count then refuse s .range
  else if 1023 < offset then refuse s .range
  else
    match (s.inboxes.get p).records with
    | [] => refuse s .empty
    | d :: _ => if d.length < offset + count then refuse s .range else okay s (payloadOf s d offset count)

/-- READ_PAYLOAD. -/
def execReadPayload (p : Port) (s : State) : Host.Outcome State Fault Refusal :=
  execution Row.readPayload readPayload p s

/-- The head record removed and its reference dropped, when there is one (R94, R102). -/
def removeHead (p : Port) (s : State) : State :=
  match (s.inboxes.get p).records with
  | [] => s
  | d :: rest => dropReference d.message.record (s.putInbox p { s.inboxes.get p with records := rest })

/-- So many records removed, oldest first, each reference dropped as its record goes (R103). -/
def removeHeads (p : Port) : Nat → State → State
  | 0, s => s
  | k + 1, s => removeHeads p k (removeHead p s)

/-- The inbox flushed: every record removed, oldest first (R103). -/
def flush (p : Port) (s : State) : State := removeHeads p (s.inboxes.get p).records.length s

/-- DISCARD_HEAD (R102). -/
def discardHead (p : Port) (_ : List Byte) (s : State) : Reply :=
  match (s.inboxes.get p).records with
  | [] => refuse s .empty
  | _ :: rest => okay (removeHead p s) [BitVec.ofNat 8 rest.length]

/-- DISCARD_HEAD. -/
def execDiscardHead (p : Port) (s : State) : Host.Outcome State Fault Refusal :=
  execution Row.discardHead discardHead p s

/-- FLUSH_INBOX (R103). -/
def flushInbox (p : Port) (_ : List Byte) (s : State) : Reply :=
  okay (flush p s) [BitVec.ofNat 8 (s.inboxes.get p).records.length]

/-- FLUSH_INBOX. -/
def execFlushInbox (p : Port) (s : State) : Host.Outcome State Fault Refusal :=
  execution Row.flushInbox flushInbox p s

/-- SET_INBOX (R104): the inbox setting checked first. -/
def setInbox (p : Port) (ps : List Byte) (s : State) : Reply :=
  let x := s.inboxes.get p
  match inboxSettingOf (byteField ps 0), settingOf (byteField ps 1) with
  | some setting, some attention =>
    okay (s.putInbox p { x with setting := setting, attention := attention })
      [x.setting.code, markByte x.attention, BitVec.ofNat 8 x.records.length]
  | _, _ => refuse s .badParam

/-- SET_INBOX. -/
def execSetInbox (p : Port) (s : State) : Host.Outcome State Fault Refusal :=
  execution Row.setInbox setInbox p s

/-- The Delivery Unit's part of a session end: the inbox flushed and its settings restored (R108). -/
def endInbox (p : Port) (s : State) : State := (flush p s).putInbox p .reset

end Sys2Proof.Machine
end

