-- ==== Sys2Proof/Machine/OutputLines.lean ====
section
/-! DEFINITION. The Output Line Unit (Section 7): the four actions, claim and release of an output line,
LINE occurrences, pulse ends and DRIVE_LINE. -/

namespace Sys2Proof.Machine

/-- An action applied to a line stage at local elapsed time `now` (R134, R135, Table 7-1). -/
def OutStage.apply (now : Nat) (x : OutStage) : LineAction → OutStage
  | .turnOn => ⟨.high, none⟩
  | .turnOff => ⟨.low, none⟩
  | .toggle =>
    match x.pulse with
    | none => ⟨x.level.opposite, none⟩
    | some pl => ⟨pl.returnLevel.opposite, none⟩
  | .pulse w =>
    match x.pulse with
    | none => ⟨x.level.opposite, some ⟨endAfter now w, x.level⟩⟩
    | some pl => ⟨x.level, some ⟨endAfter now w, pl.returnLevel⟩⟩

/-- The base level: the return level while a pulse is in flight, and the level otherwise (R131). -/
def OutStage.baseLevel (x : OutStage) : Level :=
  match x.pulse with
  | some pl => pl.returnLevel
  | none => x.level

/-- The claim of an output line drives its initial level, with no pulse in flight (R132). -/
def OutStage.claimed (initial : Level) : OutStage := ⟨initial, none⟩

/-- An action applied to an output line of the part. A release in the hundredth REFCLK period since the
last tick finds local elapsed time as that same period leaves it, the tick counted: a pulse of width w
then lasts w × 100 periods, within the bound of R137 (log entry 10). It still finds in flight a pulse whose
end that tick reaches: R143 lets either of the two be taken first, and that the occurrence is, is the
model's choice (log entry 19). -/
def applyAction (o : OutLine) (a : LineAction) (s : State) : State :=
  s.putOut o ((s.outputs.get o).apply s.time.settle.elapsed a)

/-- A LINE occurrence for an entry's owner: driven when the owner owns the line as the claim table
stands, and otherwise refused with the reason (R140, R141). -/
def lineOccurrence (owner : Port) (o : OutLine) (a : LineAction) (s : State) : State × LineOutcome :=
  match s.events.outOwner.get o with
  | none => (s, .notClaimed)
  | some q => if q = owner then (applyAction o a s, .driven) else (s, .otherOwner q)

/-- The end of a pulse in flight, when local elapsed time has reached it: the level becomes the return
level and the pulse absent (R136). -/
def pulseEnd (o : OutLine) (s : State) : State :=
  match (s.outputs.get o).pulse with
  | some pl => if reached s.time.elapsed pl.stop then s.putOut o ⟨pl.returnLevel, none⟩ else s
  | none => s

/-- PULSE_END (R136). Where no pulse is in flight on the line, or its end is not reached, there is no
such event and nothing changes (log entry 8). -/
def execPulseEnd (o : OutLine) (s : State) : Host.Outcome State Fault Refusal :=
  .next (pulseEnd o s.settleTick)

/-- The pulse state, return level and end of an answer to DRIVE_LINE, zero bytes with no pulse (R173). -/
def pulseBytes : Option Pulse → List Byte
  | none => List.replicate 8 0
  | some pl => [1, pl.returnLevel.code] ++ elapsedBytes pl.stop

/-- DRIVE_LINE (R138, R139). -/
def driveLine (p : Port) (ps : List Byte) (s : State) : Reply :=
  match outLineOf (byteField ps 0) with
  | none => refuse s .badParam
  | some o =>
    match actionOf (byteField ps 1) (field ps 2 4) with
    | none => refuse s .badParam
    | some a =>
      if a.widthInRange = false then refuse s .range
      else if s.events.outOwner.get o ≠ some p then refuse s .lineNotClaimed
      else
        let s' := applyAction o a s
        okay s' ([(s.outputs.get o).level.code, (s'.outputs.get o).level.code] ++
          pulseBytes (s'.outputs.get o).pulse)

/-- DRIVE_LINE. -/
def execDriveLine (p : Port) (s : State) : Host.Outcome State Fault Refusal :=
  execution Row.driveLine driveLine p s

end Sys2Proof.Machine
end

