-- ==== Sys2Proof/Machine/Releases.lean ====
section
/-! DEFINITION. The Calendar's armed list and its releases (Sections 4.2, 4.4, 4.5): one occurrence with
its catch-up, the release of every due entry, and the answer to a time change. -/

namespace Sys2Proof.Machine

/-! ### Records and the armed list -/

/-- An entry record replaced. -/
def Calendar.putRecord (c : Calendar) (i : RecordNo) (x : EntryRecord) : Calendar :=
  { c with records := c.records.set i x }

/-- The content of an entry record replaced, its generation kept. -/
def Calendar.putContent (c : Calendar) (i : RecordNo) (x : EntryState) : Calendar :=
  c.putRecord i { c.records[i] with content := x }

/-- The entry of a record, none while FREE. -/
def EntryState.entry? : EntryState → Option Entry
  | .free => none
  | .armed e => some e
  | .finished e _ => some e

/-- The release time of the entry in a record. -/
def Calendar.releaseOf (c : Calendar) (i : RecordNo) : Point :=
  (c.records[i].content.entry?.map (·.release)).getD ⟨0, 0⟩

/-- An entry with release time `r` joined to an armed list: behind every entry already there at that
time, since its admission sequence is the newest (R67, R68). -/
def Calendar.insertArmed (c : Calendar) (i : RecordNo) (r : Point) : List RecordNo → List RecordNo
  | [] => [i]
  | j :: rest =>
    if (c.releaseOf j).atOrBefore r then j :: c.insertArmed i r rest else i :: j :: rest

/-- An entry armed in a record at a release time: it takes the next admission sequence and joins the
armed list (R68, R71, R75, R84). -/
def Calendar.arm (c : Calendar) (i : RecordNo) (e : Entry) (r : Point) : Calendar :=
  { c.putContent i (.armed { e with release := r, sequence := c.nextSequence }) with
    armed := c.insertArmed i r (c.armed.erase i)
    nextSequence := c.nextSequence + 1 }

/-- An ARMED entry finished with a cause: it leaves the armed list, and its record joins the tail of
the free-record queue (R66, R76, R85, R89). -/
def Calendar.finish (c : Calendar) (i : RecordNo) (e : Entry) (cause : FinishCause) : Calendar :=
  { c.putContent i (.finished e cause) with
    armed := c.armed.erase i
    freeRecords := c.freeRecords ++ [i] }

/-- The message reference of an entry that stops being ARMED dropped, for a DELIVER entry (R51). -/
def dropEntryReference (e : Entry) (s : State) : State :=
  match e.action with
  | .deliver _ h => dropReference h.record s
  | .line _ _ => s

/-- An entry finished: it leaves the armed list, its reference is dropped, its record is queued. -/
def finishEntry (i : RecordNo) (e : Entry) (cause : FinishCause) (s : State) : State :=
  dropEntryReference e { s with calendar := s.calendar.finish i e cause }

/-! ### Catch-up (R75) -/

/-- What becomes of an entry at a release: re-armed at its next due time, or finished. -/
inductive Fate where
  | rearm (next : Point)
  | finish (cause : FinishCause)
deriving DecidableEq, Repr

/-- The outcome of catch-up: the skipped count, the remaining count after the release, and the fate. -/
structure CatchUp where
  skipped : Nat
  remaining : Option Nat
  fate : Fate
deriving DecidableEq, Repr

/-- The due times after release time `r` that lie at or before `t`: n of R75, for a period in ns. -/
def dueTimes (r t : Point) (period : Nat) : Nat := (t.toNs - r.toNs) / period

/-- The fate of a periodic entry that goes on: its first due time after `t`, or OUT_OF_RANGE. -/
def nextFate (r : Point) (n period : Nat) : Fate :=
  if maxPoint.toNs < r.toNs + (n + 1) * period then .finish .outOfRange
  else .rearm (.ofNs (r.toNs + (n + 1) * period))

/-- Catch-up and re-arm of an entry released at Common Time `t` (R75). -/
def catchUp (e : Entry) (t : Point) : CatchUp :=
  match e.period with
  | none => ⟨0, e.remaining, .finish .completed⟩
  | some p =>
    let n := dueTimes e.release t p.toNs
    match e.remaining with
    | none => ⟨n, none, nextFate e.release n p.toNs⟩
    | some c =>
      let skipped := min n (c - 1)
      let left := c - 1 - skipped
      ⟨skipped, some left, if left = 0 then .finish .completed else nextFate e.release n p.toNs⟩

/-- The skipped count as its two-byte field carries it. The manual states no value beyond 65,535 (log
entry 6). -/
def skippedField (n : Nat) : Nat := if n ≤ 65535 then n else (Config.skippedBeyond n).toNat

/-- The limit at which occurrences and missed stop (R64). -/
def countLimit : Nat := 65535

/-- The counts of an entry after a release (R74, third step). -/
def Entry.counted (e : Entry) (c : CatchUp) : Entry :=
  { e with
    occurrences := min countLimit (e.occurrences + 1)
    missed := min countLimit (e.missed + c.skipped)
    remaining := c.remaining }

/-! ### One occurrence (R74) -/

/-- The second step: the occurrence handed to the Delivery Unit or to the Output Line Unit, which cause
DELIVERY_FAILED or LINE_REFUSED, and their outcome. -/
def handOn (o : Occurrence) (a : EntryAction) (s : State) : State × ReleaseOutcome :=
  match a with
  | .deliver targets h =>
    let (s', placed) := deliverOccurrence o targets h s
    (s', .placed placed)
  | .line out act =>
    match lineOccurrence o.owner out act s with
    | (s', .driven) => (s', .line true)
    | (s', .notClaimed) =>
      (reportNow o.owner (.lineRefused o.entry o.number out act o.release o.late none) s', .line false)
    | (s', .otherOwner q) =>
      (reportNow o.owner (.lineRefused o.entry o.number out act o.release o.late (some q)) s', .line false)

/-- The fifth step: re-arm, or finish with ENTRY_FINISHED behind it (R75, R76, R78). -/
def settleFate (i : RecordNo) (h : Handle) (e : Entry) (fate : Fate) (s : State) : State :=
  match fate with
  | .rearm next => { s with calendar := s.calendar.arm i e next }
  | .finish cause =>
    reportNow e.owner (.entryFinished h cause e.occurrences e.missed) (finishEntry i e cause s)

/-- The fourth step: ENTRY_RELEASED for an entry with NOTIFY (R78). -/
def reportRelease (e : Entry) (o : Occurrence) (outcome : ReleaseOutcome) (s : State) : State :=
  if e.notify then reportNow e.owner (.entryReleased o.entry o.number o.release o.skipped o.late outcome) s
  else s

/-- One occurrence of the entry armed in record `i`, released at Common Time as it stands (R74). -/
def releaseEntry (late : Bool) (s : State) (i : RecordNo) : State :=
  match s.calendar.records[i].content with
  | .armed e =>
    let c := catchUp e s.time.now
    let e' := e.counted c
    let o : Occurrence :=
      { entry := ⟨i, s.calendar.records[i].gen⟩, owner := e.owner, number := e'.occurrences,
        skipped := skippedField c.skipped, release := e.release, late := late }
    let (s', outcome) := handOn o e.action s
    settleFate i o.entry e' c.fate (reportRelease e o outcome s')
  | _ => s

/-! ### Release events -/

/-- The armed entries whose release time is at or before Common Time, in list order (R73). -/
def dueEntries (s : State) : List RecordNo :=
  s.calendar.armed.filter fun i => decide ((s.calendar.releaseOf i).atOrBefore s.time.now)

/-- Every due entry released in list order, each as one occurrence. A re-armed entry lies after Common
Time, so none is released twice (R73, R79, R82). -/
def releaseDue (late : Bool) (s : State) : State := (dueEntries s).foldl (releaseEntry late) s

/-- The Calendar is RUNNING. -/
abbrev State.running (s : State) : Prop := s.calendar.releaseState = .running

/-- Every due entry released, when the Calendar is RUNNING (R73, R79, R80). -/
def releaseIfRunning (late : Bool) (s : State) : State := if s.running then releaseDue late s else s

/-- A HELD Calendar returned to RUNNING, every due entry released late; nothing while RUNNING (R82, R83). -/
def resume (s : State) : State :=
  match s.calendar.releaseState with
  | .running => s
  | .held => releaseDue true { s with calendar := { s.calendar with releaseState := .running } }

/-- TIME_CHANGED caused for each attached port (R147). -/
def reportTimeChange (old new : Point) (epoch : Byte) (cause : ChangeCause) (s : State) : State :=
  Port.all.foldl (fun s p => report p ⟨epoch, new⟩ (.timeChanged old new epoch cause) s) s

/-- A time change: Common Time takes a new value and the epoch advances by one; TIME_CHANGED goes to
the Report Queues, and then the Calendar answers (R3, R10, R79). -/
def changeTime (new : Point) (frac : Nat) (timeState : TimeState) (cause : ChangeCause) (s : State) : State :=
  let epoch := s.time.epoch + 1
  let s' := { s with time := { s.time with epoch := epoch, now := new, frac := frac, timeState := timeState } }
  releaseIfRunning true (reportTimeChange s.time.now new epoch cause s')

end Sys2Proof.Machine
end

