-- ==== Sys2Proof/Machine/TimeBase.lean ====
section
/-! DEFINITION. The Time Base (Section 1): the advance, the ends of a slew, the align step and the
commands READ_TIME, LOAD_TIME, STEP_TIME, SET_RATE, START_SLEW and STOP_SLEW. -/

namespace Sys2Proof.Machine

/-! ### The advance (R4, R7, R9) -/

/-- Units of 2^-32 ns in a nanosecond. -/
def unitsPerNs : Nat := 4294967296

/-- The nominal increment, 10 ns, in units of 2^-32 ns. -/
def nominalIncrement : Int := 42949672960

/-- The slew rate that is added to an advance: zero when no slew is running (R4, R6). -/
def TimeBase.slewRate (t : TimeBase) : Int := (t.slew.map (·.rate)).getD 0

/-- The increment of an advance: nominal plus base rate plus slew rate (R4). -/
def TimeBase.increment (t : TimeBase) : Int := nominalIncrement + t.baseRate + t.slewRate

/-- The fraction, in units of 2^-32 ns, before its carry into the nanoseconds. -/
def TimeBase.advancedUnits (t : TimeBase) : Nat := (t.frac + t.increment).toNat

/-- The nanoseconds of an advance before their carry into the seconds. -/
def TimeBase.advancedNs (t : TimeBase) : Nat := t.now.ns + t.advancedUnits / unitsPerNs

/-- Seconds and nanoseconds after an advance, the seconds not yet wrapped (R4). -/
def TimeBase.advancedPoint (t : TimeBase) : Point :=
  if t.advancedNs < nsPerSecond then ⟨t.now.sec, t.advancedNs⟩
  else ⟨t.now.sec + 1, t.advancedNs - nsPerSecond⟩

/-- One REFCLK period: Common Time advances by one increment, and the Calendar releases on time what the
advance reaches (R73). An advance past the last second wraps the seconds and is a time change (R9). -/
def advance (s : State) : State :=
  let t := { s.time with periods := s.time.periods + 1 }
  let frac := s.time.advancedUnits % unitsPerNs
  let new := s.time.advancedPoint
  if maxSeconds < new.sec then changeTime ⟨0, new.ns⟩ frac s.time.timeState .wrap { s with time := t }
  else releaseIfRunning false { s with time := { t with now := new, frac := frac } }

/-! ### The end of a slew (R6, R16 to R19) -/

/-- The remaining duration of a slew: its end minus the present local elapsed time (R6). -/
def Slew.remaining (x : Slew) (now : Nat) : Nat := distance now x.stop

/-- A running slew ends with a SLEW_DONE for the holder; with none running, nothing happens
(R13, R16, R18). -/
def endSlew (cause : SlewCause) (s : State) : State :=
  match s.time.slew with
  | none => s
  | some x =>
    reportHolder (.slewDone cause x.rate (x.remaining s.time.elapsed))
      { s with time := { s.time with slew := none } }

/-- The end of a slew that local elapsed time has reached (R18). -/
def slewEnd (s : State) : State :=
  match s.time.slew with
  | some x => if reached s.time.elapsed x.stop then endSlew .elapsed s else s
  | none => s

/-- SLEW_END (R18). Where no slew runs, or its end is not reached, there is no such event and nothing
changes (log entry 8). -/
def execSlewEnd (s : State) : Host.Outcome State Fault Refusal := .next (slewEnd s.settleTick)

/-! ### The align step (R20) -/

/-- The target plus the compensation, held at the end of the seconds range (R20, R124). -/
def alignValue (target : Point) (compensation : Nat) : Point :=
  let v := Point.ofNs (target.toNs + compensation)
  if v.atOrBefore maxPoint then v else maxPoint

/-- An align step: Common Time takes the value with fraction 0, the time state becomes SET, and a time
change with cause ALIGN is raised (R20). -/
def alignStep (value : Point) (s : State) : State := changeTime value 0 .set .align s

/-! ### Commands -/

/-- READ_TIME (R12). -/
def readTime (_ : Port) (_ : List Byte) (s : State) : Reply :=
  okay s (s.stamp.bytes ++ be 4 s.time.frac ++ [s.time.timeState.code] ++ elapsedBytes s.time.elapsed)

/-- READ_TIME. -/
def execReadTime (p : Port) (s : State) : Host.Outcome State Fault Refusal :=
  execution Row.readTime readTime p s

/-- The payload of a LOAD_TIME or STEP_TIME carried out: old time, new time, new epoch. -/
def changePayload (old new : Point) (epoch : Byte) : List Byte := old.bytes ++ new.bytes ++ [epoch]

/-- LOAD_TIME (R13): a running slew ends LOADED, then Common Time takes the given point with fraction 0
and the time state becomes SET. -/
def loadTime (_ : Port) (ps : List Byte) (s : State) : Reply :=
  let new := pointField ps 0
  if 999999999 < new.ns then refuse s .range
  else okay (changeTime new 0 .set .load (endSlew .loaded s))
    (changePayload s.time.now new (s.time.epoch + 1))

/-- LOAD_TIME. -/
def execLoadTime (p : Port) (s : State) : Host.Outcome State Fault Refusal :=
  execution Row.loadTime loadTime p s

/-- The time a step leads to, from the sign (back as true) and the offset, or its refusal (R14). -/
def steppedTime (now : Point) (back : Bool) (offset : Point) : Except Result Point :=
  if 2147483647 < offset.sec ∨ 999999999 < offset.ns then .error .range
  else if back then
    if offset.atOrBefore now then .ok (now.minus offset) else .error .range
  else
    if maxSeconds < (now.plus offset).sec then .error .range else .ok (now.plus offset)

/-- STEP_TIME (R14): the fraction and the time state are kept. -/
def stepTime (_ : Port) (ps : List Byte) (s : State) : Reply :=
  match stepSignOf (byteField ps 0) with
  | none => refuse s .badParam
  | some back =>
    match steppedTime s.time.now back (pointField ps 1) with
    | .error r => refuse s r
    | .ok new =>
      okay (changeTime new s.time.frac s.time.timeState .step s)
        (changePayload s.time.now new (s.time.epoch + 1))

/-- STEP_TIME. -/
def execStepTime (p : Port) (s : State) : Host.Outcome State Fault Refusal :=
  execution Row.stepTime stepTime p s

/-- The range of the base rate and of a slew rate (R5, R6). -/
abbrev rateInRange (r : Int) : Prop := -67108864 ≤ r ∧ r ≤ 67108864

/-- SET_RATE (R15). -/
def setRate (_ : Port) (ps : List Byte) (s : State) : Reply :=
  if rateInRange (rateField ps 0) then
    okay { s with time := { s.time with baseRate := rateField ps 0 } } (rateBytes s.time.baseRate)
  else refuse s .range

/-- SET_RATE. -/
def execSetRate (p : Port) (s : State) : Host.Outcome State Fault Refusal :=
  execution Row.setRate setRate p s

/-- START_SLEW (R16): the rate checked before the duration; a running slew ends REPLACED first. -/
def startSlew (_ : Port) (ps : List Byte) (s : State) : Reply :=
  let duration := field ps 4 4
  if ¬ rateInRange (rateField ps 0) then refuse s .range
  else if duration < 1 ∨ 1000000 < duration then refuse s .range
  else
    let stop := endAfter s.time.elapsed (duration * 1000)
    let s' := endSlew .replaced s
    okay { s' with time := { s'.time with slew := some ⟨rateField ps 0, stop⟩ } } (elapsedBytes stop)

/-- START_SLEW. -/
def execStartSlew (p : Port) (s : State) : Host.Outcome State Fault Refusal :=
  execution Row.startSlew startSlew p s

/-- STOP_SLEW (R17): no report; remaining duration and rate, both 0 when no slew runs. -/
def stopSlew (_ : Port) (_ : List Byte) (s : State) : Reply :=
  match s.time.slew with
  | none => okay s (be 4 0 ++ rateBytes 0)
  | some x =>
    okay { s with time := { s.time with slew := none } }
      (be 4 (x.remaining s.time.elapsed) ++ rateBytes x.rate)

/-- STOP_SLEW. -/
def execStopSlew (p : Port) (s : State) : Host.Outcome State Fault Refusal :=
  execution Row.stopSlew stopSlew p s

end Sys2Proof.Machine
end

