-- ==== Sys2Proof/Machine/EventLines.lean ====
section
/-! DEFINITION. The Event Line Unit (Section 6): the claim table, edges and stamps, the capture queue
and the align arming, with the commands of that section. -/

namespace Sys2Proof.Machine

/-! ### The claim table (R110 to R114) -/

/-- The owner of a line in the claim table. -/
def State.ownerOf (s : State) : Line → Option Port
  | .event l => (s.events.lines.get l).owner
  | .output o => s.events.outOwner.get o

/-- A fresh claim of an event line: its owner and parameters set, its queue empty (R111). -/
def EventLine.claimed (x : EventLine) (p : Port) (select : EdgeSelect) (compensation : Nat) : EventLine :=
  { x with owner := some p, select := select, compensation := compensation, captures := [], drops := 0 }

/-- The owner checks of CLAIM_LINE, then the claim (R111). -/
def claim (p : Port) (line : Line) (s : State) (granted : Reply) : Reply :=
  match s.ownerOf line with
  | none => granted
  | some q => if q = p then ⟨s, .alreadyClaimed, []⟩ else ⟨s, .lineHeld, [q.code]⟩

/-- CLAIM_LINE (R111, R132): the initial level of an output line goes to the Output Line Unit. -/
def claimLine (p : Port) (ps : List Byte) (s : State) : Reply :=
  let compensation := field ps 2 2
  match lineOf (byteField ps 0) with
  | none => refuse s .badParam
  | some (.event l) =>
    match edgeSelectOf (byteField ps 1) with
    | none => refuse s .badParam
    | some sel =>
      claim p (.event l) s
        (okay (s.putLine l ((s.events.lines.get l).claimed p sel compensation))
          ([l.code, sel.code] ++ be 2 compensation))
  | some (.output o) =>
    match levelOf (byteField ps 1) with
    | none => refuse s .badParam
    | some level =>
      claim p (.output o) s
        (okay ((s.putOutOwner o (some p)).putOut o (.claimed level)) [o.code, level.code, 0, 0])

/-- CLAIM_LINE. -/
def execClaimLine (p : Port) (s : State) : Host.Outcome State Fault Refusal :=
  execution Row.claimLine claimLine p s

/-- The arming cancelled, with ALIGN_RESULT CANCELLED for the port that armed it (R127). -/
def cancelArming (cause : CancelCause) (s : State) : State :=
  match s.events.arming with
  | none => s
  | some a => reportNow a.port (.alignResult a.mode a.line a.target (.cancelled cause)) (s.putArming none)

/-- An align armed on an event line cancelled at the line's release (R112, first step). -/
def cancelArmingOn (l : EvLine) (s : State) : State :=
  match s.events.arming with
  | some a => if a.line = l then cancelArming .lineReleased s else s
  | none => s

/-- The release of an event line: the align on it cancelled, its queue emptied, its settings and its
owner returned (R112). -/
def releaseEventLine (l : EvLine) (s : State) : State :=
  let s' := cancelArmingOn l s
  s'.putLine l (.unclaimed (s'.events.lines.get l).level)

/-- The release of an output line: any pulse cancelled, the level LOW, no owner (R112, R133). -/
def releaseOutputLine (o : OutLine) (s : State) : State := (s.putOut o .idle).putOutOwner o none

/-- The capture records that the release of a line discards. -/
def State.captureCount (s : State) : Line → Nat
  | .event l => (s.events.lines.get l).captures.length
  | .output _ => 0

/-- The release of a line. -/
def releaseOf (line : Line) (s : State) : State :=
  match line with
  | .event l => releaseEventLine l s
  | .output o => releaseOutputLine o s

/-- RELEASE_LINE (R112). -/
def releaseLine (p : Port) (ps : List Byte) (s : State) : Reply :=
  match lineOf (byteField ps 0) with
  | none => refuse s .badParam
  | some line =>
    if s.ownerOf line ≠ some p then refuse s .lineNotClaimed
    else okay (releaseOf line s) [BitVec.ofNat 8 (s.captureCount line)]

/-- RELEASE_LINE. -/
def execReleaseLine (p : Port) (s : State) : Host.Outcome State Fault Refusal :=
  execution Row.releaseLine releaseLine p s

/-- The eight lines in the order of a session end (R129). -/
def Line.all : List Line := EvLine.all.map .event ++ OutLine.all.map .output

/-- Every line of a port released in line order, at its session's end (R129). -/
def endClaims (p : Port) (s : State) : State :=
  Line.all.foldl (fun s line => if s.ownerOf line = some p then releaseOf line s else s) s

/-- The settings and counts of an event line in QUERY_LINES. -/
def EventLine.bytes (x : EventLine) : List Byte :=
  [x.select.code] ++ be 2 x.compensation ++ [BitVec.ofNat 8 x.captures.length, BitVec.ofNat 8 x.drops]

/-- The arming in QUERY_LINES: a present byte, the arming, its port; zero bytes for none. -/
def armingBytes : Option Arming → List Byte
  | none => List.replicate 16 0
  | some a => [1] ++ a.bytes ++ [a.port.code]

/-- QUERY_LINES (R114). -/
def queryLines (_ : Port) (_ : List Byte) (s : State) : Reply :=
  okay s ((Line.all.map fun line => portByte (s.ownerOf line)) ++
    (EvLine.all.flatMap fun l => (s.events.lines.get l).bytes) ++ armingBytes s.events.arming)

/-- QUERY_LINES. -/
def execQueryLines (p : Port) (s : State) : Host.Outcome State Fault Refusal :=
  execution Row.queryLines queryLines p s

/-! ### Captures (R116 to R119) -/

/-- Capture records that a queue holds at most (R117). -/
def captureCapacity : Nat := 8

/-- The polarity of an edge to a level (R115). -/
def Polarity.of : Level → Polarity
  | .high => .rising
  | .low => .falling

/-- The edge select includes the polarity (R116). -/
def EdgeSelect.includes : EdgeSelect → Polarity → Bool
  | .rising, .rising => true
  | .falling, .falling => true
  | .both, _ => true
  | _, _ => false

/-- The stamp of an edge: Common Time less the compensation, 0 s 0 ns where it would lie below that, in
the present epoch (R116). -/
def edgeStamp (t : TimeBase) (compensation : Nat) : Stamp := ⟨t.epoch, .ofNs (t.now.toNs - compensation)⟩

/-- A selected edge stored, or dropped when the queue is full (R117). -/
def EventLine.record (x : EventLine) (stamp : Stamp) (pol : Polarity) : EventLine :=
  if x.captures.length < captureCapacity then
    { x with captures := x.captures ++ [⟨stamp, pol, x.drops⟩], drops := 0 }
  else { x with drops := min 255 (x.drops + 1) }

/-- A selected edge of a line's owner captured: stored or dropped, with CAPTURE_READY when it was stored
into an empty queue (R117, R118). -/
def capture (l : EvLine) (owner : Port) (stamp : Stamp) (pol : Polarity) (s : State) : State :=
  let x := s.events.lines.get l
  let s' := s.putLine l (x.record stamp pol)
  if x.captures = [] then report owner stamp (.captureReady l ⟨stamp, pol, x.drops⟩) s' else s'

/-- TAKE_CAPTURE (R119). -/
def takeCapture (p : Port) (ps : List Byte) (s : State) : Reply :=
  match eventLineOf (byteField ps 0) with
  | none => refuse s .badParam
  | some l =>
    let x := s.events.lines.get l
    if x.owner ≠ some p then refuse s .lineNotClaimed
    else
      match x.captures with
      | [] => refuse s .empty
      | c :: rest =>
        okay (s.putLine l { x with captures := rest })
          (c.bytes ++ [BitVec.ofNat 8 rest.length, BitVec.ofNat 8 x.drops])

/-- TAKE_CAPTURE. -/
def execTakeCapture (p : Port) (s : State) : Host.Outcome State Fault Refusal :=
  execution Row.takeCapture takeCapture p s

/-! ### The align arming (R121 to R127) -/

/-- ARM_ALIGN (R122), the checks of its table in order. -/
def armAlign (p : Port) (ps : List Byte) (s : State) : Reply :=
  let target := pointField ps 2
  let guard := field ps 10 4
  match alignModeOf (byteField ps 0), eventLineOf (byteField ps 1) with
  | some mode, some l =>
    match firstFailing [
      (decide (999999999 < target.ns), .range),
      (decide (999999999 < guard), .range),
      (decide ((s.events.lines.get l).owner ≠ some p), .lineNotClaimed),
      (s.events.arming.isSome, .alignBusy)] with
    | some r => refuse s r
    | none =>
      let a : Arming := ⟨mode, l, target, guard, p⟩
      okay (s.putArming (some a)) a.bytes
  | _, _ => refuse s .badParam

/-- ARM_ALIGN. -/
def execArmAlign (p : Port) (s : State) : Host.Outcome State Fault Refusal :=
  execution Row.armAlign armAlign p s

/-- DISARM_ALIGN (R126). -/
def disarmAlign (_ : Port) (_ : List Byte) (s : State) : Reply :=
  match s.events.arming with
  | none => refuse s .notArmed
  | some a => okay (s.putArming none) a.bytes

/-- DISARM_ALIGN. -/
def execDisarmAlign (p : Port) (s : State) : Host.Outcome State Fault Refusal :=
  execution Row.disarmAlign disarmAlign p s

/-- The offset of a stamp from the target: target minus stamp, an offset of zero positive (R123). -/
def offsetFrom (target stamp : Point) : Offset :=
  if stamp.atOrBefore target then ⟨false, target.minus stamp⟩ else ⟨true, stamp.minus target⟩

/-- The offset's magnitude exceeds the guard (R124). -/
abbrev Offset.exceeds (o : Offset) (guard : Nat) : Prop :=
  0 < o.magnitude.sec ∨ (o.magnitude.sec = 0 ∧ guard < o.magnitude.ns)

/-- The edge given to a STEP arming: the arming ends, and Common Time is stepped, or the step rejected
by the guard (R124). -/
def stepEdge (a : Arming) (compensation : Nat) (t : Stamp) (stored : Bool) (s : State) : State :=
  let o := offsetFrom a.target t.point
  let s' := s.putArming none
  if a.guard ≠ 0 ∧ o.exceeds a.guard then
    reportNow a.port (.alignResult .step a.line a.target (.rejected t o stored)) s'
  else
    reportNow a.port (.alignResult .step a.line a.target (.stepped t o stored))
      (alignStep (alignValue a.target compensation) s')

/-- The edge given to a MEASURE arming: an OFFSET report, the arming in place (R125). -/
def measureEdge (a : Arming) (t : Stamp) (pol : Polarity) (stored : Bool) (s : State) : State :=
  report a.port t (.offset a.line a.target t pol (offsetFrom a.target t.point) stored) s

/-- A selected edge given to the arming, when one is armed on its line (R123). -/
def alignEdge (l : EvLine) (compensation : Nat) (t : Stamp) (pol : Polarity) (stored : Bool) (s : State) :
    State :=
  match s.events.arming with
  | none => s
  | some a =>
    if a.line = l then
      match a.mode with
      | .step => stepEdge a compensation t stored s
      | .measure => measureEdge a t pol stored s
    else s

/-- A selected edge: stamped, stored or dropped, then given to the arming (R116, R117, R123). -/
def selectedEdge (l : EvLine) (owner : Port) (pol : Polarity) (s : State) : State :=
  let x := s.events.lines.get l
  let t := edgeStamp s.time x.compensation
  alignEdge l x.compensation t pol (decide (x.captures.length < captureCapacity)) (capture l owner t pol s)

/-- A recognized edge: the recognized level follows the pin, and a selected edge acts (R115, R116). -/
def recognizedEdge (l : EvLine) (level : Level) (s : State) : State :=
  let x := s.events.lines.get l
  let s' := s.putLine l { x with level := level }
  match x.owner with
  | none => s'
  | some p => if x.select.includes (.of level) then selectedEdge l p (.of level) s' else s'

/-- Nanoseconds for which the pin must hold its new level (R115). -/
def recognitionNs : Nat := 30

/-- EDGE_RECOGNIZED (R115): a change of the pin to the level opposite its recognized level, held for at
least 30 ns. Any other change of the pin, and one while nRESET is asserted, changes nothing. -/
def execEdgeRecognized (l : EvLine) (level : Level) (held : Nat) (s : State) :
    Host.Outcome State Fault Refusal :=
  if s.resetAsserted = false ∧ level ≠ (s.events.lines.get l).level ∧ recognitionNs ≤ held then
    .next (recognizedEdge l level s.settleTick)
  else .next s

end Sys2Proof.Machine
end

