-- ==== Sys2Proof/Machine/TimeAuthority.lean ====
section
/-! DEFINITION. The Time Authority (Section 2): claims, leases, the loss and the handover. -/

namespace Sys2Proof.Machine

/-- The lease length range in ms (R25). -/
abbrev leaseInRange (ms : Nat) : Prop := 10 ≤ ms ∧ ms ≤ 60000

/-- The expiry of a lease that begins at local elapsed time `now` (R24). -/
def leaseExpiryFrom (now lease : Nat) : Nat := endAfter now (lease * 1000)

/-- A port made holder, its lease beginning at the present local elapsed time (R24, R25, R34). -/
def grant (p : Port) (lease : Nat) (s : State) : State :=
  { s with authority := { s.authority with holder := some ⟨p, lease, leaseExpiryFrom s.time.elapsed lease⟩ } }

/-- The payload of a lease begun or restarted: lease length and expiry. -/
def leaseBytes (s : State) (lease : Nat) : List Byte :=
  be 2 lease ++ elapsedBytes (leaseExpiryFrom s.time.elapsed lease)

/-- The position of a waiter, counted from 1 at the oldest; 0 for a port that does not wait (R23). -/
def Authority.position (a : Authority) (p : Port) : Nat :=
  match a.waiters.findIdx? (fun w => decide (w.port = p)) with
  | some i => i + 1
  | none => 0

/-- A port's entry removed from the waiter queue (R30, R37). -/
def dropWaiter (p : Port) (s : State) : State :=
  { s with authority := { s.authority with waiters := s.authority.waiters.filter fun w => decide (w.port ≠ p) } }

/-! ### The loss and the handover (R33, R34) -/

/-- The handover: the oldest waiter becomes holder with the lease it asked for and AUTHORITY_GRANTED, or
the authority stays VACANT (R34). -/
def handover (former : Port) (cause : LossCause) (s : State) : State :=
  match s.authority.waiters with
  | [] => s
  | w :: rest =>
    let s' := grant w.port w.lease { s with authority := { s.authority with waiters := rest } }
    reportNow w.port
      (.authorityGranted former cause w.lease (leaseExpiryFrom s.time.elapsed w.lease)) s'

/-- AUTHORITY_LOST for the former holder, at an expiry only (R31, R33 second step). -/
def reportLoss (h : Holder) (cause : LossCause) (s : State) : State :=
  match cause with
  | .expired =>
    reportNow h.port (.authorityLost h.lease h.expiry (s.authority.waiters.head?.map (·.port))) s
  | _ => s

/-- The loss of the authority by its holder, in the order of R33: no holder, AUTHORITY_LOST, the align
disarmed, the Calendar resumed, the handover. -/
def loseAuthority (h : Holder) (cause : LossCause) (s : State) : State :=
  handover h.port cause
    (resume
      (cancelArming .authorityLost
        (reportLoss h cause { s with authority := { s.authority with holder := none } })))

/-- The expiry of the holder's lease, when local elapsed time has reached it (R31). -/
def leaseExpiry (s : State) : State :=
  match s.authority.holder with
  | some h => if reached s.time.elapsed h.expiry then loseAuthority h .expired s else s
  | none => s

/-- LEASE_EXPIRY (R31). Where the authority is VACANT, or the expiry is not reached, there is no such
event and nothing changes (log entry 8). -/
def execLeaseExpiry (s : State) : Host.Outcome State Fault Refusal := .next (leaseExpiry s.settleTick)

/-- The Time Authority's part of a session end: a holder loses the authority with cause DETACHED, a
waiter leaves the queue (R37). -/
def endAuthority (p : Port) (s : State) : State :=
  match s.authority.holder with
  | some h => if h.port = p then loseAuthority h .detached s else dropWaiter p s
  | none => dropWaiter p s

/-! ### Commands -/

/-- CLAIM_AUTHORITY (R25, R26, R27). -/
def claimAuthority (p : Port) (ps : List Byte) (s : State) : Reply :=
  let lease := field ps 0 2
  if ¬ leaseInRange lease then refuse s .range
  else
    match s.authority.holder with
    | none => okay (grant p lease s) (leaseBytes s lease)
    | some h =>
      if h.port = p then ⟨grant p lease s, .alreadyHolder, leaseBytes s lease⟩
      else if s.authority.position p ≠ 0 then
        ⟨s, .alreadyWaiting, [BitVec.ofNat 8 (s.authority.position p)]⟩
      else
        let s' := { s with authority := { s.authority with waiters := s.authority.waiters ++ [⟨p, lease⟩] } }
        ⟨s', .waiting, [BitVec.ofNat 8 s'.authority.waiters.length]⟩

/-- CLAIM_AUTHORITY. -/
def execClaimAuthority (p : Port) (s : State) : Host.Outcome State Fault Refusal :=
  execution Row.claimAuthority claimAuthority p s

/-- The holder's commands RENEW_AUTHORITY and RELEASE_AUTHORITY make their own test of the holder, and
refuse any other port with NOT_AUTHORITY (R28, R29, R36). -/
def asHolder (p : Port) (s : State) (body : Holder → Reply) : Reply :=
  match s.authority.holder with
  | some h => if h.port = p then body h else refuse s .notAuthority
  | none => refuse s .notAuthority

/-- RENEW_AUTHORITY (R28). -/
def renewAuthority (p : Port) (_ : List Byte) (s : State) : Reply :=
  asHolder p s fun h => okay (grant p h.lease s) (leaseBytes s h.lease)

/-- RENEW_AUTHORITY. -/
def execRenewAuthority (p : Port) (s : State) : Host.Outcome State Fault Refusal :=
  execution Row.renewAuthority renewAuthority p s

/-- RELEASE_AUTHORITY (R29): the answer gives the holder after the handover. -/
def releaseAuthority (p : Port) (_ : List Byte) (s : State) : Reply :=
  asHolder p s fun h =>
    let s' := loseAuthority h .released s
    okay s' [portByte s'.authority.holderPort]

/-- RELEASE_AUTHORITY. -/
def execReleaseAuthority (p : Port) (s : State) : Host.Outcome State Fault Refusal :=
  execution Row.releaseAuthority releaseAuthority p s

/-- WITHDRAW_CLAIM (R30). -/
def withdrawClaim (p : Port) (_ : List Byte) (s : State) : Reply :=
  if s.authority.position p = 0 then refuse s .notWaiting
  else okay (dropWaiter p s) [BitVec.ofNat 8 (s.authority.position p)]

/-- WITHDRAW_CLAIM. -/
def execWithdrawClaim (p : Port) (s : State) : Host.Outcome State Fault Refusal :=
  execution Row.withdrawClaim withdrawClaim p s

end Sys2Proof.Machine
end

