-- ==== Sys2Proof/Machine/Clock.lean ====
section
/-! DEFINITION. The clock (R4, R8): one period of REFCLK, the tick of local elapsed time, and what must
have happened before time moves on. -/

namespace Sys2Proof.Machine

/-- The slew's end and the pulse ends, by number: 0 the slew, 1 to 4 the pulses of OUT0 to OUT3. -/
def takeEnd : Nat → State → State
  | 0, s => slewEnd s
  | 1, s => pulseEnd .out0 s
  | 2, s => pulseEnd .out1 s
  | 3, s => pulseEnd .out2 s
  | 4, s => pulseEnd .out3 s
  | _, s => s

/-- The numbers of those ends. -/
def endNumbers : List Nat := [0, 1, 2, 3, 4]

/-- The holder's lease has run out: its expiry is reached. -/
def State.leaseDue (s : State) : Bool :=
  s.authority.holder.any fun h => decide (reached s.time.elapsed h.expiry)

/-- Ends that local elapsed time has reached and that the queue has not brought as events of their own,
taken before time moves on (R8). A slew end and the pulse ends touch nothing that another of them
reads; which of them come before a lease expiry is open, and a free value decides (log entry 4). -/
def takeDueEnds (s : State) : State :=
  if s.leaseDue then
    let before := endNumbers.filter fun k => Config.endBeforeLease s.draws k
    let after := endNumbers.filter fun k => !Config.endBeforeLease s.draws k
    let s1 := before.foldl (fun s k => takeEnd k s) { s with draws := s.draws + 1 }
    after.foldl (fun s k => takeEnd k s) (leaseExpiry s1)
  else endNumbers.foldl (fun s k => takeEnd k s) s

/-- REFCLK_ADVANCE (R4): what is due before this period (the tick of local elapsed time, ends reached)
is taken if the queue has not brought it, and Common Time advances by one increment. The releases of the
hundredth period since the last tick come before that tick and before every end that it reaches: R8 counts
the tick after the period, and where R143 lets a LINE occurrence and a pulse end come in either order this
is the model's choice (DESIGN CHOICE, log entry 19). While nRESET is asserted nothing advances (R8, R21). -/
def execRefclkAdvance (s : State) : Host.Outcome State Fault Refusal :=
  if s.resetAsserted = true then .next s else .next (advance (takeDueEnds s.settleTick))

/-- ELAPSED_TICK (R8): local elapsed time advances by one after each 100 periods of REFCLK. Before the
hundredth period there is no such event and nothing changes (log entry 8). -/
def execElapsedTick (s : State) : Host.Outcome State Fault Refusal := .next s.settleTick

end Sys2Proof.Machine
end

