-- ==== Sys2Proof/Machine/Schedule.lean ====
section
/-! DEFINITION. The commands of the Calendar (Sections 4.3, 4.6, 4.7) and its part of a session end:
SCHEDULE_AT, SCHEDULE_AFTER, RETIME, CANCEL, QUERY_ENTRY, HOLD_RELEASES and RESUME_RELEASES. -/

namespace Sys2Proof.Machine

/-! ### Admission (R69 to R72) -/

/-- The period range's upper limit, 65,535 s 0 ns. -/
def maxPeriod : Point := ⟨65535, 0⟩

/-- The shortest period in ns, 10 µs. -/
def minPeriodNs : Nat := 10000

/-- Steps 1 to 5 of Table 4-2, the same for both commands but for step 2, whose condition is given. -/
def scheduleFieldChecks (ps : List Byte) (timeOutOfRange : Bool) : Option Result :=
  let period := periodField ps
  let remaining := field ps 16 2
  firstFailing [
    ((!kindDeliver ps && !kindLine ps) || undefinedFlag ps, .badParam),
    (timeOutOfRange, .range),
    (periodPresent ps && decide (999999999 < period.ns ∨ ¬ period.atOrBefore maxPeriod), .range),
    (periodPresent ps && decide (period.toNs < minPeriodNs), .badParam),
    (remainingPresent ps && !periodPresent ps, .badParam),
    (remainingPresent ps && decide (remaining = 0), .range),
    (kindDeliver ps && (targetsOf (byteField ps 18)).isNone, .badParam),
    (kindLine ps && ((outLineOf (byteField ps 21)).isNone ||
      (actionOf (byteField ps 22) (field ps 23 4)).isNone), .badParam),
    (kindLine ps && !((actionOf (byteField ps 22) (field ps 23 4)).all (·.widthInRange)), .range)]

/-- Step 8 of Table 4-2: the message handle as the Message Store checks it (R49), or the claim of the
output line as the claim table stands. -/
def scheduleObjectCheck (p : Port) (ps : List Byte) (s : State) : Option Result :=
  if kindDeliver ps then
    match handleField ps 19 with
    | none => some .range
    | some h =>
      match s.store.named h with
      | none => some .staleHandle
      | some m => if m.sender = p then none else some .notOwner
  else
    match outLineOf (byteField ps 21) with
    | none => some .badParam
    | some o => if s.events.outOwner.get o = some p then none else some .lineNotClaimed

/-- The entry a SCHEDULE block describes, for its owner (R71). -/
def scheduledEntry (p : Port) (ps : List Byte) (action : EntryAction) : Entry :=
  { owner := p, action := action, release := ⟨0, 0⟩, sequence := 0
    period := if periodPresent ps then some (periodField ps) else none
    remaining := if remainingPresent ps then some (field ps 16 2) else none
    occurrences := 0, missed := 0
    notify := (byteField ps 9).getLsbD 0, keep := (byteField ps 9).getLsbD 1
    strict := (byteField ps 9).getLsbD 2 }

/-- The record at the head of the free-record queue taken for an entry: its generation advanced, the
entry armed at its release time with the next admission sequence (R71). -/
def Calendar.take (c : Calendar) (i : RecordNo) (rest : List RecordNo) (e : Entry) (r : Point) : Calendar :=
  { c.putRecord i { gen := c.records[i].gen + 1, content := .free } with freeRecords := rest }.arm i e r

/-- The reference that an entry takes at its admission (R50). -/
def takeEntryReference (a : EntryAction) (s : State) : State :=
  match a with
  | .deliver _ h => takeReference h.record s
  | .line _ _ => s

/-- An armed entry at or before Common Time released within the present event, while RUNNING (R72, R84). -/
def releaseIfDue (late : Bool) (i : RecordNo) (r : Point) (s : State) : State :=
  if s.running ∧ r.atOrBefore s.time.now then releaseEntry late s i else s

/-- An admission carried out into record `i`, with its release within the event when it is due (R71,
R72). -/
def carryOutAdmission (i : RecordNo) (rest : List RecordNo) (e : Entry) (r : Point) (late : Bool)
    (s : State) : Reply :=
  let s' := takeEntryReference e.action { s with calendar := s.calendar.take i rest e r }
  okay (releaseIfDue late i r s')
    (Handle.bytes ⟨i, s.calendar.records[i].gen + 1⟩ ++ r.bytes ++ be 4 s.calendar.nextSequence.toNat)

/-- Step 10 of Table 4-2 and the admission. `late` is the mark of a release within the event. -/
def schedule (p : Port) (ps : List Byte) (r : Point) (late : Bool) (s : State) : Reply :=
  match s.calendar.freeRecords, entryActionField ps with
  | i :: rest, some action => carryOutAdmission i rest (scheduledEntry p ps action) r late s
  | _, _ => refuse s .calendarFull

/-- SCHEDULE_AT (R69, R70): Table 4-2 in order. -/
def scheduleAt (p : Port) (ps : List Byte) (s : State) : Reply :=
  let r := pointField ps 0
  match scheduleFieldChecks ps (decide (999999999 < r.ns)) with
  | some x => refuse s x
  | none =>
    if s.time.timeState = .free then refuse s .timeNotSet
    else
      match scheduleObjectCheck p ps s with
      | some x => refuse s x
      | none =>
        if (byteField ps 9).getLsbD 2 = true ∧ r.atOrBefore s.time.now then refuse s .past
        else schedule p ps r true s

/-- SCHEDULE_AT. -/
def execScheduleAt (p : Port) (s : State) : Host.Outcome State Fault Refusal :=
  execution Row.scheduleAt scheduleAt p s

/-- SCHEDULE_AFTER (R69, R70): Table 4-2 in order, the release time computed at the execution. -/
def scheduleAfter (p : Port) (ps : List Byte) (s : State) : Reply :=
  let delay := pointField ps 0
  match scheduleFieldChecks ps (decide (65535 < delay.sec ∨ 999999999 < delay.ns)) with
  | some x => refuse s x
  | none =>
    let r := s.time.now.plus delay
    if ¬ r.atOrBefore maxPoint then refuse s .range
    else
      match scheduleObjectCheck p ps s with
      | some x => refuse s x
      | none => schedule p ps r false s

/-- SCHEDULE_AFTER. -/
def execScheduleAfter (p : Port) (s : State) : Host.Outcome State Fault Refusal :=
  execution Row.scheduleAfter scheduleAfter p s

/-! ### Commands on entries (R65, R84 to R86) -/

/-- The entry that a handle names, none when the handle is stale (R65). -/
def Calendar.named (c : Calendar) (h : Handle) : Option Entry :=
  if c.records[h.record].gen = h.gen then c.records[h.record].content.entry? else none

/-- The answer TOO_LATE, with finish cause, occurrences and missed (R84, R85). -/
def tooLate (s : State) (e : Entry) (cause : FinishCause) : Reply :=
  ⟨s, .tooLate, [cause.code] ++ be 2 e.occurrences ++ be 2 e.missed⟩

/-- The checks that RETIME and CANCEL share on an entry of a handle in range: STALE_HANDLE, NOT_OWNER,
TOO_LATE; then the rule for an ARMED entry. -/
def onArmed (p : Port) (h : Handle) (s : State) (body : Entry → Reply) : Reply :=
  match s.calendar.named h with
  | none => refuse s .staleHandle
  | some e =>
    if e.owner ≠ p then refuse s .notOwner
    else
      match s.calendar.records[h.record].content with
      | .finished e cause => tooLate s e cause
      | _ => body e

/-- RETIME (R84). -/
def retime (p : Port) (ps : List Byte) (s : State) : Reply :=
  let r := pointField ps 2
  match handleField ps 0 with
  | none => refuse s .range
  | some h =>
    if 999999999 < r.ns then refuse s .range
    else if s.time.timeState = .free then refuse s .timeNotSet
    else
      onArmed p h s fun e =>
        if e.strict = true ∧ r.atOrBefore s.time.now then refuse s .past
        else
          okay (releaseIfDue true h.record r { s with calendar := s.calendar.arm h.record e r })
            (r.bytes ++ be 4 s.calendar.nextSequence.toNat)

/-- RETIME. -/
def execRetime (p : Port) (s : State) : Host.Outcome State Fault Refusal :=
  execution Row.retime retime p s

/-- CANCEL (R85). -/
def cancel (p : Port) (ps : List Byte) (s : State) : Reply :=
  match handleField ps 0 with
  | none => refuse s .range
  | some h =>
    onArmed p h s fun e =>
      okay (finishEntry h.record e .cancelled s) (be 2 e.occurrences ++ be 2 e.missed)

/-- CANCEL. -/
def execCancel (p : Port) (s : State) : Host.Outcome State Fault Refusal :=
  execution Row.cancel cancel p s

/-- QUERY_ENTRY (R86). -/
def queryEntry (_ : Port) (ps : List Byte) (s : State) : Reply :=
  match handleField ps 0 with
  | none => refuse s .range
  | some h =>
    match s.calendar.named h with
    | none => refuse s .staleHandle
    | some e => okay s (entryBytes h.gen s.calendar.records[h.record].content e)

/-- QUERY_ENTRY. -/
def execQueryEntry (p : Port) (s : State) : Host.Outcome State Fault Refusal :=
  execution Row.queryEntry queryEntry p s

/-! ### Holding releases (R81, R82) -/

/-- HOLD_RELEASES (R81). -/
def holdReleases (_ : Port) (_ : List Byte) (s : State) : Reply :=
  okay { s with calendar := { s.calendar with releaseState := .held } } [s.calendar.releaseState.code]

/-- HOLD_RELEASES. -/
def execHoldReleases (p : Port) (s : State) : Host.Outcome State Fault Refusal :=
  execution Row.holdReleases holdReleases p s

/-- How many entries a resume releases: those due while HELD, none while RUNNING (R82). -/
def resumeCount (s : State) : Nat :=
  match s.calendar.releaseState with
  | .running => 0
  | .held => (dueEntries s).length

/-- RESUME_RELEASES (R82). -/
def resumeReleases (_ : Port) (_ : List Byte) (s : State) : Reply :=
  okay (resume s) [s.calendar.releaseState.code, BitVec.ofNat 8 (resumeCount s)]

/-- RESUME_RELEASES. -/
def execResumeReleases (p : Port) (s : State) : Host.Outcome State Fault Refusal :=
  execution Row.resumeReleases resumeReleases p s

/-! ### The owner's session end (R89) -/

/-- An ARMED entry of the port without KEEP finished with cause OWNER_DETACHED. -/
def endEntry (p : Port) (s : State) (i : RecordNo) : State :=
  match s.calendar.records[i].content with
  | .armed e => if e.owner = p ∧ e.keep = false then finishEntry i e .ownerDetached s else s
  | _ => s

/-- The Calendar's part of a session end: those entries finished in list order. -/
def endEntries (p : Port) (s : State) : State := s.calendar.armed.foldl (endEntry p) s

end Sys2Proof.Machine
end

