-- ==== Sys2Proof/Machine/Sessions.lean ====
section
/-! DEFINITION. Sessions (Sections 9.3 to 9.5): ATTACH, DETACH, STATUS, the end of a session, and the
reset inputs nPRSTn and nRESET. -/

namespace Sys2Proof.Machine

/-! ### The end of a session (R169, Table 9-2) -/

/-- Step 4 of Table 9-2: the port's drafts abandoned (R61). -/
def endDrafts (p : Port) (s : State) : State := { s with store := s.store.abandonDrafts p }

/-- Step 7 of Table 9-2: the port's report queue emptied and its mask set all ON (R156). -/
def endReports (p : Port) (s : State) : State := s.putReports p (s.reports.get p).ended

/-- Step 8 of Table 9-2: session state DETACHED. -/
def endPort (p : Port) (s : State) : State :=
  { s.putPort p { s.ports.get p with session := .detached } with departing := none }

/-- The end of a port's session, the blocks in the order of Table 9-2. From its start every report for
the port is discarded; the session state becomes DETACHED at its end. -/
def endSession (p : Port) (s : State) : State :=
  let s1 := { s with departing := some p }
  let s2 := endEntries p s1
  let s3 := endAuthority p s2
  let s4 := endDrafts p s3
  let s5 := endClaims p s4
  let s6 := endInbox p s5
  let s7 := endReports p s6
  endPort p s7

/-! ### Commands -/

/-- ATTACH (R166). -/
def attach (p : Port) (_ : List Byte) (s : State) : Reply :=
  let x := s.ports.get p
  match x.session with
  | .attached => ⟨s, .alreadyAttached, []⟩
  | .detached =>
    okay (s.putPort p { x with session := .attached, sessionNumber := x.sessionNumber + 1 })
      ([x.sessionNumber + 1] ++ be 2 (s.reports.get p).nextSequence.toNat)

/-- ATTACH. -/
def execAttach (p : Port) (s : State) : Host.Outcome State Fault Refusal :=
  execution Row.attach attach p s

/-- DETACH (R167): the session ends, and the answer has no payload. -/
def detach (p : Port) (_ : List Byte) (s : State) : Reply := okay (endSession p s) []

/-- DETACH. -/
def execDetach (p : Port) (s : State) : Host.Outcome State Fault Refusal :=
  execution Row.detach detach p s

/-- The payload of STATUS (Table 10-8), its items those of Table 9-3. -/
def statusBytes (s : State) (p : Port) : List Byte :=
  let x := s.ports.get p
  [p.code, x.session.code, x.sessionNumber, s.time.timeState.code, s.time.epoch,
    portByte s.authority.holderPort, BitVec.ofNat 8 s.authority.waiters.length,
    s.calendar.releaseState.code, BitVec.ofNat 8 s.calendar.armed.length] ++
  be 2 s.store.freeBlocks.length ++ [BitVec.ofNat 8 s.store.freeRecords.length] ++
  be 2 (s.store.charge.get p) ++ be 2 (s.store.quota.get p) ++
  [BitVec.ofNat 8 (s.inboxes.get p).records.length, BitVec.ofNat 8 (s.reports.get p).reports.length]

/-- STATUS (R171). -/
def status (p : Port) (_ : List Byte) (s : State) : Reply := okay s (statusBytes s p)

/-- STATUS. -/
def execStatus (p : Port) (s : State) : Host.Outcome State Fault Refusal :=
  execution Row.status status p s

/-! ### Reset inputs -/

/-- The slot emptied, and nPRSTn asserted; whatever the slot held is discarded, and nothing is driven
on SDOn (R168). -/
def assertPortReset (p : Port) (s : State) : State :=
  s.putPort p { s.ports.get p with slot := .empty, resetAsserted := true, sdo := [] }

/-- PORT_RESET (R168): the assertion of nPRSTn. The session of an attached port ends at the same event. -/
def execPortReset (p : Port) (s : State) : Host.Outcome State Fault Refusal :=
  let s' := assertPortReset p s.settleTick
  if s.attached p then .next (endSession p s') else .next s'

/-- PORT_RESET_NEGATION (R168): nothing changes but that the port no longer ignores transactions whose
nCSn falls from here on. -/
def execPortResetNegation (p : Port) (s : State) : Host.Outcome State Fault Refusal :=
  .next (s.putPort p { s.ports.get p with resetAsserted := false })

/-- Device reset: every block at its reset values, nRESET asserted (R172). The levels of the nPRSTn pins
are inputs and stay as they are driven; the model's own counter and queue go on. -/
def deviceReset (s : State) : State :=
  { State.reset with
    ports := ⟨.reset s.ports.p0.resetAsserted, .reset s.ports.p1.resetAsserted,
      .reset s.ports.p2.resetAsserted, .reset s.ports.p3.resetAsserted⟩
    draws := s.draws
    pending := s.pending }

/-- DEVICE_RESET (R172): the assertion of nRESET, or power-up. -/
def execDeviceReset (s : State) : Host.Outcome State Fault Refusal := .next (deviceReset s)

/-- An event line whose recognized level is taken from its pin (R115). -/
def EventLine.takeLevel (x : EventLine) (pin : Level) : EventLine := { x with level := pin }

/-- RESET_NEGATION (R8, R21, R115): both times begin to advance, and the recognized levels are those the
pins hold. Where nRESET is not asserted there is no such event (log entry 8). -/
def execResetNegation (pins : PerEv Level) (s : State) : Host.Outcome State Fault Refusal :=
  if s.resetAsserted = true then
    .next { s with
      resetAsserted := false
      events := { s.events with
        lines := ⟨s.events.lines.ev0.takeLevel pins.ev0, s.events.lines.ev1.takeLevel pins.ev1,
          s.events.lines.ev2.takeLevel pins.ev2, s.events.lines.ev3.takeLevel pins.ev3⟩ } }
  else .next s

end Sys2Proof.Machine
end

