-- ==== Sys2Proof/Machine/Dispatch.lean ====
section
/-! DEFINITION. One arm for each row of spec/opcode_table.json: a direct call of its meaning. -/

namespace Sys2Proof.Machine

/-- The effect of a command or event on everything but the queue. -/
def exec (i : Instr) (s : State) : Host.Outcome State Fault Refusal :=
  match i with
  | .commandWrite p t => Sys2Proof.Machine.execCommandWrite p t s
  | .responseRead p t => Sys2Proof.Machine.execResponseRead p t s
  | .unknownCommand p => Sys2Proof.Machine.execUnknownCommand p s
  | .readTime p => Sys2Proof.Machine.execReadTime p s
  | .loadTime p => Sys2Proof.Machine.execLoadTime p s
  | .stepTime p => Sys2Proof.Machine.execStepTime p s
  | .setRate p => Sys2Proof.Machine.execSetRate p s
  | .startSlew p => Sys2Proof.Machine.execStartSlew p s
  | .stopSlew p => Sys2Proof.Machine.execStopSlew p s
  | .refclkAdvance => Sys2Proof.Machine.execRefclkAdvance s
  | .elapsedTick => Sys2Proof.Machine.execElapsedTick s
  | .slewEnd => Sys2Proof.Machine.execSlewEnd s
  | .claimAuthority p => Sys2Proof.Machine.execClaimAuthority p s
  | .renewAuthority p => Sys2Proof.Machine.execRenewAuthority p s
  | .releaseAuthority p => Sys2Proof.Machine.execReleaseAuthority p s
  | .withdrawClaim p => Sys2Proof.Machine.execWithdrawClaim p s
  | .leaseExpiry => Sys2Proof.Machine.execLeaseExpiry s
  | .openDraft p => Sys2Proof.Machine.execOpenDraft p s
  | .append p => Sys2Proof.Machine.execAppend p s
  | .abandonDraft p => Sys2Proof.Machine.execAbandonDraft p s
  | .setQuota p => Sys2Proof.Machine.execSetQuota p s
  | .scheduleAt p => Sys2Proof.Machine.execScheduleAt p s
  | .scheduleAfter p => Sys2Proof.Machine.execScheduleAfter p s
  | .retime p => Sys2Proof.Machine.execRetime p s
  | .cancel p => Sys2Proof.Machine.execCancel p s
  | .queryEntry p => Sys2Proof.Machine.execQueryEntry p s
  | .holdReleases p => Sys2Proof.Machine.execHoldReleases p s
  | .resumeReleases p => Sys2Proof.Machine.execResumeReleases p s
  | .fetchHead p => Sys2Proof.Machine.execFetchHead p s
  | .readPayload p => Sys2Proof.Machine.execReadPayload p s
  | .discardHead p => Sys2Proof.Machine.execDiscardHead p s
  | .flushInbox p => Sys2Proof.Machine.execFlushInbox p s
  | .setInbox p => Sys2Proof.Machine.execSetInbox p s
  | .claimLine p => Sys2Proof.Machine.execClaimLine p s
  | .releaseLine p => Sys2Proof.Machine.execReleaseLine p s
  | .queryLines p => Sys2Proof.Machine.execQueryLines p s
  | .takeCapture p => Sys2Proof.Machine.execTakeCapture p s
  | .armAlign p => Sys2Proof.Machine.execArmAlign p s
  | .disarmAlign p => Sys2Proof.Machine.execDisarmAlign p s
  | .edgeRecognized l level held => Sys2Proof.Machine.execEdgeRecognized l level held s
  | .driveLine p => Sys2Proof.Machine.execDriveLine p s
  | .pulseEnd o => Sys2Proof.Machine.execPulseEnd o s
  | .takeReport p => Sys2Proof.Machine.execTakeReport p s
  | .setReportMask p => Sys2Proof.Machine.execSetReportMask p s
  | .attach p => Sys2Proof.Machine.execAttach p s
  | .detach p => Sys2Proof.Machine.execDetach p s
  | .status p => Sys2Proof.Machine.execStatus p s
  | .portReset p => Sys2Proof.Machine.execPortReset p s
  | .deviceReset => Sys2Proof.Machine.execDeviceReset s
  | .resetNegation pins => Sys2Proof.Machine.execResetNegation pins s
  | .portResetNegation p => Sys2Proof.Machine.execPortResetNegation p s

end Sys2Proof.Machine
end

