-- ==== Sys2Proof/Safety.lean ====
section
/-! DEFINITION. What counts as a sound state of the part: the promises the manual makes about every
state that stands between two events, block by block. Each is a decidable proposition. -/

namespace Sys2Proof.Machine

/-! ### Section 1 -/

/-- The fields of the Time Base stay in the ranges of Table 1-2, rates in theirs (R1, R5, R6, R8), and
fewer than 101 REFCLK periods have passed since the last tick of local elapsed time (R8). -/
abbrev TimeInRange (t : TimeBase) : Prop :=
  t.now.sec ≤ maxSeconds ∧ t.now.ns < nsPerSecond ∧ t.frac < unitsPerNs ∧ rateInRange t.baseRate ∧
    (∀ x ∈ t.slew, rateInRange x.rate) ∧ t.elapsed < elapsedModulus ∧ t.periods ≤ periodsPerTick

/-- An end in local elapsed time that has not been passed: less than 2^47 µs ahead (R8), and strictly
ahead once a REFCLK period has passed since the last tick. -/
abbrev EndAhead (t : TimeBase) (stop : Nat) : Prop :=
  distance t.elapsed stop < 140737488355328 ∧ (0 < t.periods → distance t.elapsed stop ≠ 0)

/-- An entry that acts on a line with PULSE has a width in range (R70); every other record passes. -/
def EntryState.pulseInRange (c : EntryState) : Bool :=
  match c.entry? with
  | some e =>
    match e.action with
    | .line _ a => a.widthInRange
    | .deliver _ _ => true
  | none => true

/-- Every lease length held or waited for lies in its range (R23), and so does the width of every PULSE
that an entry keeps (R64). -/
abbrev DurationsInRange (s : State) : Prop :=
  (∀ h ∈ s.authority.holder, leaseInRange h.lease) ∧ (∀ w ∈ s.authority.waiters, leaseInRange w.lease) ∧
    ∀ i : RecordNo, s.calendar.records[i].content.pulseInRange = true

/-- No end of a slew, a lease or a pulse has been passed (R8). -/
abbrev EndsAhead (s : State) : Prop :=
  (∀ x ∈ s.time.slew, EndAhead s.time x.stop) ∧ (∀ h ∈ s.authority.holder, EndAhead s.time h.expiry) ∧
    ∀ o ∈ OutLine.all, ∀ pl ∈ (s.outputs.get o).pulse, EndAhead s.time pl.stop

/-- No end is ever passed, with the ranges that this rests on. -/
abbrev NoEndPassed (s : State) : Prop := TimeInRange s.time ∧ DurationsInRange s ∧ EndsAhead s

/-! ### The armed list and the free records (Sections 3 and 4) -/

/-- The record is ARMED. -/
def EntryState.isArmed : EntryState → Bool
  | .armed _ => true
  | _ => false

/-- The armed list holds every ARMED entry and no other, once; the other records stand in the
free-record queue, once (R63, R66, R67). -/
abbrev ArmedListComplete (c : Calendar) : Prop :=
  c.armed.Nodup ∧ c.freeRecords.Nodup ∧
    ∀ i : RecordNo, (i ∈ c.armed ↔ c.records[i].content.isArmed = true) ∧
      (i ∈ c.freeRecords ↔ c.records[i].content.isArmed = false)

/-- FREE records and no others stand in the free-record queue, once (R42). -/
abbrev FreeRecordsSound (st : Store) : Prop :=
  st.freeRecords.Nodup ∧ ∀ i : RecordNo, i ∈ st.freeRecords ↔ st.records[i].content = .free

/-! ### Sections 2, 6 and 9: what a port holds -/

/-- The Time Authority has one holder and waiters that are distinct, none of them the holder, and all
of them attached (R23); nobody waits for a VACANT authority, since the handover leaves it VACANT only
with an empty queue (R34). -/
abbrev AuthoritySound (s : State) : Prop :=
  (s.authority.waiters.map (·.port)).Nodup ∧ (s.authority.holder = none → s.authority.waiters = []) ∧
    (∀ h ∈ s.authority.holder, s.attached h.port ∧ ∀ w ∈ s.authority.waiters, w.port ≠ h.port) ∧
    (∀ w ∈ s.authority.waiters, s.attached w.port)

/-- Every claimed line is claimed by an attached port (R110). -/
abbrev ClaimsAttached (s : State) : Prop :=
  ∀ line ∈ Line.all, ∀ p ∈ s.ownerOf line, s.attached p

/-- The arming's port holds the Time Authority and the claim of the armed line (R121), and the Calendar
is HELD only while some port holds the Time Authority (R81). -/
abbrev GuardedByAuthority (s : State) : Prop :=
  (∀ a ∈ s.events.arming, s.isHolder a.port ∧ (s.events.lines.get a.line).owner = some a.port) ∧
    (s.calendar.releaseState = .held → s.authority.holder ≠ none)

/-- The record is an ARMED entry of the port without KEEP, which the end of the port's session finishes
(R89). -/
def EntryState.endsWith (p : Port) : EntryState → Bool
  | .armed e => decide (e.owner = p) && !e.keep
  | _ => false

/-- What a DETACHED port has left: an empty inbox, OPEN with attention ON (R108), an empty report queue
with its mask all ON (R156), no draft (R61), and no ARMED entry without KEEP (R89). -/
abbrev HoldsNothing (s : State) (p : Port) : Prop :=
  s.inboxes.get p = .reset ∧ s.reports.get p = (s.reports.get p).ended ∧ s.store.draftCount p = 0 ∧
    ∀ i : RecordNo, s.calendar.records[i].content.endsWith p = false

/-- A DETACHED port holds nothing. -/
abbrev DetachedHoldsNothing (s : State) : Prop := ∀ p ∈ Port.all, ¬ s.attached p → HoldsNothing s p

/-- The promises about ports and what they hold, with the armed list that a session end goes through;
no session is ending between two events. -/
abbrev SessionsSound (s : State) : Prop :=
  s.departing = none ∧ ArmedListComplete s.calendar ∧ AuthoritySound s ∧ ClaimsAttached s ∧
    GuardedByAuthority s ∧ DetachedHoldsNothing s

/-! ### Section 3 -/

/-- The chain of the message in a record, empty while FREE. -/
def MessageState.chain (c : MessageState) : List BlockNo := (c.message?.map (·.chain)).getD []

/-- The blocks in the chains of a port's DRAFT and SEALED records (R56). -/
def Store.blocksOf (st : Store) (p : Port) : Nat :=
  (st.records.toList.map fun r =>
    match r.content.message? with
    | some m => if m.sender = p then m.chain.length else 0
    | none => 0).sum

/-- Every block stands on the free list or in one chain (R39). -/
abbrev BlocksSound (st : Store) : Prop :=
  (st.freeBlocks ++ st.records.toList.flatMap (fun r => r.content.chain)).Perm (List.finRange 512)

/-- A chain has a block for each 32 bytes begun, and no message passes 1,024 bytes (R40). -/
abbrev ChainsSound (st : Store) : Prop :=
  ∀ i : RecordNo, ∀ m ∈ st.records[i].content.message?,
    m.length ≤ 1024 ∧ m.chain.length = blocksFor m.length

/-- Each port's charge is the number of blocks it holds and never exceeds its quota (R56, R57). -/
abbrev ChargesSound (st : Store) : Prop :=
  ∀ p ∈ Port.all, st.charge.get p = st.blocksOf p ∧ st.charge.get p ≤ st.quota.get p ∧ st.quota.get p ≤ 512

/-- Each port has at most two drafts (R44). -/
abbrev DraftsBounded (st : Store) : Prop := ∀ p ∈ Port.all, st.draftCount p ≤ 2

/-- The promises about the Message Store that rest on nothing outside it. -/
abbrev StoreSound (st : Store) : Prop :=
  BlocksSound st ∧ ChainsSound st ∧ FreeRecordsSound st ∧ ChargesSound st ∧ DraftsBounded st

/-! ### Section 4 -/

/-- An ARMED entry's fields: a period of at least 10 µs, a remaining count only with a period and of at
least 1, a release time on the scale (R64, R70). -/
abbrev Entry.sound (e : Entry) : Prop :=
  (∀ p ∈ e.period, minPeriodNs ≤ p.toNs) ∧ (∀ c ∈ e.remaining, 1 ≤ c ∧ c ≤ 65535 ∧ e.period ≠ none) ∧
    e.release.sec ≤ maxSeconds ∧ e.release.ns < nsPerSecond ∧ e.occurrences ≤ countLimit ∧
    e.missed ≤ countLimit

/-- The armed list stands in ascending release time (R67). -/
abbrev ArmedListSorted (c : Calendar) : Prop :=
  c.armed.Pairwise fun i j => (c.releaseOf i).atOrBefore (c.releaseOf j)

/-- The armed list is complete and sorted, and its entries are sound. -/
abbrev ArmedListSound (c : Calendar) : Prop :=
  ArmedListComplete c ∧ ArmedListSorted c ∧ ∀ i ∈ c.armed, ∀ e ∈ c.records[i].content.entry?, e.sound

/-- While the Calendar is RUNNING, no ARMED entry has a release time at or before Common Time (R67). -/
abbrev NothingDue (s : State) : Prop := s.running → dueEntries s = []

/-- The promises about the Calendar, with those about the time it is compared with. -/
abbrev CalendarSound (s : State) : Prop := TimeInRange s.time ∧ ArmedListSound s.calendar ∧ NothingDue s

/-- The reference count of a record, 0 for one that is FREE or a DRAFT (R41). -/
def MessageState.refs : MessageState → Nat
  | .sealed _ n => n
  | _ => 0

/-- The record is SEALED. -/
def MessageState.isSealed : MessageState → Bool
  | .sealed _ _ => true
  | _ => false

/-- The record is an ARMED entry that names the message record. -/
def EntryState.names (i : RecordNo) : EntryState → Bool
  | .armed e => match e.action with
    | .deliver _ h => decide (h.record = i)
    | .line _ _ => false
  | _ => false

/-- How many ARMED entries and inbox records name the message record (R50). -/
def State.namingCount (s : State) (i : RecordNo) : Nat :=
  (s.calendar.records.toList.countP fun r => r.content.names i) +
  (Port.all.map fun p => (s.inboxes.get p).records.countP fun d => decide (d.message.record = i)).sum

/-- The reference count of a SEALED message is the number of ARMED entries and inbox records naming it,
and never 0; any other record is named by none (R50). -/
abbrev ReferencesExact (s : State) : Prop :=
  ∀ i : RecordNo, s.store.records[i].content.refs = s.namingCount i ∧
    (s.store.records[i].content.isSealed = true → 1 ≤ s.namingCount i)

/-- The promises about references, with those about the records that entries and drafts are taken from. -/
abbrev ReferencesSound (s : State) : Prop :=
  ArmedListComplete s.calendar ∧ FreeRecordsSound s.store ∧ ReferencesExact s

/-! ### Sections 5, 6 and 8: bounded queues -/

/-- The sequence numbers of a report queue rise by one up to the counter (R145). -/
abbrev SequencesRise (q : ReportQueue) : Prop :=
  q.reports.map (·.sequence) =
    (List.range q.reports.length).map fun k => q.nextSequence - BitVec.ofNat 16 (q.reports.length - k)

/-- A report is a REPORTS_LOST. -/
def ReportBody.isLost : ReportBody → Bool
  | .reportsLost _ _ => true
  | _ => false

/-- A report queue holds at most 16 reports, the sixteenth an open REPORTS_LOST and nothing else (R145,
R149, R150); REPORTS_LOST is ON in every mask (R148). -/
abbrev ReportsSound (q : ReportQueue) : Prop :=
  q.mask[12] = true ∧ SequencesRise q ∧
    (if q.lostOpen then q.reports.length = reportCapacity ∧ (q.reports.getLast?.any fun r => r.body.isLost) = true
    else q.reports.length ≤ reportCapacity - 1)

/-- The queues of the part within their bounds: reports (R145), inbox records (R92), capture records and
drop counts (R117). -/
abbrev QueuesBounded (s : State) : Prop :=
  (∀ p ∈ Port.all, ReportsSound (s.reports.get p) ∧ (s.inboxes.get p).records.length ≤ inboxCapacity) ∧
    ∀ l ∈ EvLine.all, (s.events.lines.get l).captures.length ≤ captureCapacity ∧
      (s.events.lines.get l).drops ≤ 255

/-! ### Section 7 -/

/-- An unclaimed output line is LOW with no pulse in flight, and while a pulse is in flight the level is
the opposite of the return level (R131). -/
abbrev OutputsSound (s : State) : Prop :=
  ∀ o ∈ OutLine.all, (s.events.outOwner.get o = none → s.outputs.get o = .idle) ∧
    ∀ pl ∈ (s.outputs.get o).pulse, (s.outputs.get o).level = pl.returnLevel.opposite

/-! ### Section 9 -/

/-- While nRESET is asserted the part holds its reset values and no port holds a command (R172); while
nPRSTn is asserted the port's slot is EMPTY and the port is DETACHED (R168). -/
abbrev ResetsHold (s : State) : Prop :=
  (s.resetAsserted = true → s = deviceReset s) ∧
    ∀ p ∈ Port.all, (s.ports.get p).resetAsserted = true →
      (s.ports.get p).slot = .empty ∧ ¬ s.attached p

end Sys2Proof.Machine
end

