-- ==== Sys2Proof/Certificates/Slice0/Obligations.lean ====
section
/-! DEFINITION. The statements for the provers. `s` is the state before, and `u`, where it stands, is `s`
with an outstanding tick of local elapsed time taken, against which a command is carried out. Statements
with the premise `s.time.periods < 100` are about states in which no tick is outstanding, where `u` is
`s`; `OutstandingTickTakenFirst` carries them to the others. -/

namespace Sys2Proof.Claims

open Sys2Proof.Machine

/-! ### Vocabulary -/

/-- The command `c` stands PENDING at port `p` with marks `d` (dropped) and `o` (overwrote). -/
abbrev Pends (p : Port) (c : Command) (d o : Bool) (s : State) : Prop :=
  (s.ports.get p).slot = .pending c d o

/-- `c` stands PENDING at `p`, is a command of `row`, and passes the checks of session (R162), authority
(R36) and length (R162). -/
abbrev Executes (row : CommandRow) (p : Port) (c : Command) (d o : Bool) (s : State) : Prop :=
  Pends p c d o s ∧ c.code = row.code ∧ (row.anySession = false → s.attached p) ∧
    (row.needsAuthority = true → s.isHolder p) ∧ row.length ≤ c.params.length

/-- The execution event ends in `t` with the response of command `c` READY: `AnswerMakesSlotReady` says
what that is. -/
abbrev answered (p : Port) (c : Command) (d o : Bool) (r : Result) (payload : List Byte) (t : State) : State :=
  complete p c.tag d o ⟨t, ⟨r, payload⟩⟩

/-- What the releases of one event leave alone, whatever they release. -/
abbrev KeptByReleases (u t : State) : Prop :=
  t.time = u.time ∧ t.authority = u.authority ∧ t.events = u.events ∧ t.ports = u.ports ∧
    t.resetAsserted = u.resetAsserted ∧ t.departing = u.departing ∧ t.draws = u.draws ∧
    t.pending = u.pending ∧ t.store.pool = u.store.pool ∧ t.store.quota = u.store.quota ∧
    t.calendar.releaseState = u.calendar.releaseState

/-- The entries due at Common Time of `w`, released in list order, when the Calendar is RUNNING. -/
abbrev Released (late : Bool) (w t : State) : Prop :=
  t = (if w.running then (dueEntries w).foldl (releaseEntry late) w else w) ∧ KeptByReleases w t

/-- A time change of `u` (R10): the new time, epoch and fraction; TIME_CHANGED offered to each attached
port's queue; then every due entry released late (R79). -/
abbrev TimeChange (u : State) (new : Point) (frac : Nat) (ts : TimeState) (cause : ChangeCause) (t : State) :
    Prop :=
  ∃ w : State,
    w = { u with
      time := { u.time with epoch := u.time.epoch + 1, now := new, frac := frac, timeState := ts }
      reports := w.reports } ∧
    (∀ q, w.reports.get q =
      if u.attached q ∧ u.departing ≠ some q then
        (u.reports.get q).offer ⟨u.time.epoch + 1, new⟩
          (.timeChanged u.time.now new (u.time.epoch + 1) cause)
      else u.reports.get q) ∧
    Released true w t

/-- The ends in local elapsed time that `u` has reached, taken: with `slew`, the slew's (R18), and the pulse
ends of the `lines` named (R136). An end that is not reached is not taken. -/
abbrev EndsTaken (slew : Bool) (lines : OutLine → Bool) (u v : State) : Prop :=
  ∃ w : State,
    (slew = false ∨ (∀ x ∈ u.time.slew, distance u.time.elapsed x.stop ≠ 0) → w = u) ∧
    (∀ x, slew = true → u.time.slew = some x → distance u.time.elapsed x.stop = 0 →
      let ended := { u with time := { u.time with slew := none } }
      (u.authority.holder = none → w = ended) ∧
      ∀ h, u.authority.holder = some h → w = report h.port u.stamp (.slewDone .elapsed x.rate 0) ended) ∧
    v = { w with outputs := v.outputs } ∧
    ∀ o, v.outputs.get o = match (u.outputs.get o).pulse with
      | some pl => if lines o = true ∧ distance u.time.elapsed pl.stop = 0 then ⟨pl.returnLevel, none⟩
          else u.outputs.get o
      | none => u.outputs.get o

/-- The loss of the authority by `h` with a cause, whole and in its order (R33, R34). The holder becomes
none; at an expiry AUTHORITY_LOST is stored for the former holder, with the port that is to receive the
authority (R31); an armed align ends, with ALIGN_RESULT CANCELLED; a HELD Calendar returns to RUNNING and
releases every entry then due, late, in list order (R83); and the oldest waiter becomes holder with the
lease it asked for, counted from the loss, and is sent AUTHORITY_GRANTED, or the authority is VACANT. No
line, quota, port or time has changed. -/
abbrev AuthorityLoss (h : Holder) (cause : LossCause) (u t : State) : Prop :=
  let next := u.authority.waiters.head?
  let expiryOf : Waiter → Nat := fun w => (u.time.elapsed + w.lease * 1000) % 281474976710656
  let authority : Authority :=
    ⟨next.map fun w => ⟨w.port, w.lease, expiryOf w⟩, u.authority.waiters.tail⟩
  let vacated := { u with authority := { u.authority with holder := none } }
  let due := u.calendar.armed.filter fun i => decide ((u.calendar.releaseOf i).atOrBefore u.time.now)
  (t.authority = authority ∧ t.events = { u.events with arming := none } ∧
    t.calendar.releaseState = .running ∧ t.time = u.time ∧ t.ports = u.ports ∧
    t.store.quota = u.store.quota) ∧
  ∃ a b c : State,
    a = (if cause = .expired then
      report h.port u.stamp (.authorityLost h.lease h.expiry (next.map (·.port))) vacated else vacated) ∧
    b = (match u.events.arming with
      | none => a
      | some m => report m.port u.stamp (.alignResult m.mode m.line m.target (.cancelled .authorityLost))
          (a.putArming none)) ∧
    (u.calendar.releaseState = .running → c = b) ∧
    (u.calendar.releaseState = .held → c = due.foldl (releaseEntry true)
      { b with calendar := { b.calendar with releaseState := .running } }) ∧
    t = match next with
      | none => c
      | some w => report w.port u.stamp (.authorityGranted h.port cause w.lease (expiryOf w))
          { c with authority := authority }

/-- Every end that `u` has reached and that the queue has not brought, taken: `v`. With a lease expiry
among them, the slew end and each pulse end come before or after it as a free value has it, and the draw
is counted; every order that R32 and R143 allow between them and the expiry is covered (log entry 4). -/
abbrev DueEndsTaken (u v : State) : Prop :=
  ((∀ h ∈ u.authority.holder, distance u.time.elapsed h.expiry ≠ 0) →
    EndsTaken true (fun _ => true) u v) ∧
  ∀ h, u.authority.holder = some h → distance u.time.elapsed h.expiry = 0 →
    let slewFirst := Config.endBeforeLease u.draws 0
    let pulseFirst : OutLine → Bool := fun o => Config.endBeforeLease u.draws (o.code.toNat - 3)
    ∃ a b : State, EndsTaken slewFirst pulseFirst { u with draws := u.draws + 1 } a ∧
      AuthorityLoss h .expired a b ∧ EndsTaken (!slewFirst) (fun o => !pulseFirst o) b v

/-- The eight bits of a byte, most significant first. -/
abbrev bitsMostSignificantFirst (b : Byte) : List Bool := (List.range 8).map fun k => b.getLsbD (7 - k)

/-- The code of a report's kind (Table 10-13). -/
def reportCode : ReportBody → Byte
  | .authorityGranted .. => 0x01
  | .authorityLost .. => 0x02
  | .timeChanged .. => 0x03
  | .slewDone .. => 0x04
  | .alignResult .. => 0x05
  | .offset .. => 0x06
  | .entryReleased .. => 0x07
  | .entryFinished .. => 0x08
  | .deliveryFailed .. => 0x09
  | .lineRefused .. => 0x0A
  | .captureReady .. => 0x0B
  | .quotaChanged .. => 0x0C
  | .reportsLost .. => 0x0D

/-- The fields of each kind of report, in the order and the widths of Table 10-13 (R177), with the codes
that Table 10-1 gives their named values. -/
def reportFields (body : ReportBody) : List Byte :=
  let point : Point → List Byte := fun a => be 4 a.sec ++ be 4 a.ns
  let stamp : Stamp → List Byte := fun a => a.epoch :: point a.point
  let handle : Handle → List Byte := fun h => [BitVec.ofNat 8 h.record.val, h.gen]
  let mark : Bool → Byte := fun b => if b then 1 else 0
  let offset : Offset → List Byte := fun o => mark o.negative :: point o.magnitude
  let port : Port → Byte
    | .p0 => 0
    | .p1 => 1
    | .p2 => 2
    | .p3 => 3
  let event : EvLine → Byte
    | .ev0 => 0
    | .ev1 => 1
    | .ev2 => 2
    | .ev3 => 3
  let polarity : Polarity → Byte
    | .rising => 1
    | .falling => 2
  match body with
  | .authorityGranted former cause lease expiry =>
    [port former, match cause with | .released => 1 | .expired => 2 | .detached => 3] ++ be 2 lease ++
      be 6 expiry
  | .authorityLost lease expiry newHolder =>
    be 2 lease ++ be 6 expiry ++ [match newHolder with | some p => port p | none => 0xFF]
  | .timeChanged old new epoch cause =>
    point old ++ point new ++
      [epoch, match cause with | .load => 1 | .step => 2 | .align => 3 | .wrap => 4]
  | .slewDone cause rate remaining =>
    [match cause with | .elapsed => 1 | .replaced => 2 | .loaded => 3] ++
      be 4 (BitVec.ofInt 32 rate).toNat ++ be 4 remaining
  | .alignResult mode line target result =>
    (match result with
      | .stepped _ _ _ => [1, 0]
      | .rejected _ _ _ => [2, 0]
      | .cancelled cause => [3, match cause with | .authorityLost => 1 | .lineReleased => 2]) ++
    [match mode with | .step => 1 | .measure => 2, event line] ++ point target ++
    (match result with
      | .stepped t o stored => stamp t ++ offset o ++ [mark stored]
      | .rejected t o stored => stamp t ++ offset o ++ [mark stored]
      | .cancelled _ => List.replicate 19 0)
  | .offset line target t pol o stored =>
    [event line] ++ point target ++ stamp t ++ [polarity pol] ++ offset o ++ [mark stored]
  | .entryReleased entry occurrence release skipped late outcome =>
    handle entry ++ be 2 occurrence ++ point release ++ be 2 skipped ++ [mark late] ++
    (match outcome with
      | .placed ts =>
        [1, BitVec.ofNat 8 (ts.p0.toNat + 2 * ts.p1.toNat + 4 * ts.p2.toNat + 8 * ts.p3.toNat)]
      | .line driven => [2, if driven then 1 else 2])
  | .entryFinished entry cause occurrences missed =>
    handle entry ++
      [match cause with | .completed => 1 | .cancelled => 2 | .ownerDetached => 3 | .outOfRange => 4] ++
      be 2 occurrences ++ be 2 missed
  | .deliveryFailed entry occurrence release late failed =>
    handle entry ++ be 2 occurrence ++ point release ++ [mark late, BitVec.ofNat 8 failed.length] ++
      failed.flatMap fun x => [port x.1, match x.2 with | .detached => 1 | .closed => 2 | .full => 3]
  | .lineRefused entry occurrence line action release late owner =>
    handle entry ++ be 2 occurrence ++
      [match line with | .out0 => 4 | .out1 => 5 | .out2 => 6 | .out3 => 7,
        match action with | .turnOn => 1 | .turnOff => 2 | .toggle => 3 | .pulse _ => 4] ++
      point release ++ [mark late] ++
      (match owner with | none => [1, 0xFF] | some q => [2, port q])
  | .captureReady line capture =>
    [event line] ++ stamp capture.stamp ++ [polarity capture.polarity, BitVec.ofNat 8 capture.lostBefore]
  | .quotaChanged previous new charge issuer => be 2 previous ++ be 2 new ++ be 2 charge ++ [port issuer]
  | .reportsLost count newest => be 2 count ++ stamp newest

/-- The rows of Table 10-6 with the port of each: every constructor that is a command of a host. -/
def rowOf : Instr → Option (Port × CommandRow)
  | .readTime p => some (p, Row.readTime)
  | .loadTime p => some (p, Row.loadTime)
  | .stepTime p => some (p, Row.stepTime)
  | .setRate p => some (p, Row.setRate)
  | .startSlew p => some (p, Row.startSlew)
  | .stopSlew p => some (p, Row.stopSlew)
  | .claimAuthority p => some (p, Row.claimAuthority)
  | .renewAuthority p => some (p, Row.renewAuthority)
  | .releaseAuthority p => some (p, Row.releaseAuthority)
  | .withdrawClaim p => some (p, Row.withdrawClaim)
  | .openDraft p => some (p, Row.openDraft)
  | .append p => some (p, Row.append)
  | .abandonDraft p => some (p, Row.abandonDraft)
  | .setQuota p => some (p, Row.setQuota)
  | .scheduleAt p => some (p, Row.scheduleAt)
  | .scheduleAfter p => some (p, Row.scheduleAfter)
  | .retime p => some (p, Row.retime)
  | .cancel p => some (p, Row.cancel)
  | .queryEntry p => some (p, Row.queryEntry)
  | .holdReleases p => some (p, Row.holdReleases)
  | .resumeReleases p => some (p, Row.resumeReleases)
  | .fetchHead p => some (p, Row.fetchHead)
  | .readPayload p => some (p, Row.readPayload)
  | .discardHead p => some (p, Row.discardHead)
  | .flushInbox p => some (p, Row.flushInbox)
  | .setInbox p => some (p, Row.setInbox)
  | .claimLine p => some (p, Row.claimLine)
  | .releaseLine p => some (p, Row.releaseLine)
  | .queryLines p => some (p, Row.queryLines)
  | .takeCapture p => some (p, Row.takeCapture)
  | .armAlign p => some (p, Row.armAlign)
  | .disarmAlign p => some (p, Row.disarmAlign)
  | .driveLine p => some (p, Row.driveLine)
  | .takeReport p => some (p, Row.takeReport)
  | .setReportMask p => some (p, Row.setReportMask)
  | .attach p => some (p, Row.attach)
  | .detach p => some (p, Row.detach)
  | .status p => some (p, Row.status)
  | .commandWrite _ _ => none
  | .responseRead _ _ => none
  | .unknownCommand _ => none
  | .refclkAdvance => none
  | .elapsedTick => none
  | .slewEnd => none
  | .leaseExpiry => none
  | .edgeRecognized _ _ _ => none
  | .pulseEnd _ => none
  | .portReset _ => none
  | .deviceReset => none
  | .resetNegation _ => none
  | .portResetNegation _ => none

/-- The bytes of a command frame, from the length byte through the CRC (Table 10-4). -/
def frameOf (c : Command) : List Byte :=
  let covered := BitVec.ofNat 8 (c.params.length + 2) :: c.code :: c.tag :: c.params
  covered ++ [BitVec.ofNat 8 ((crc covered).toNat / 256), BitVec.ofNat 8 ((crc covered).toNat % 256)]

end Sys2Proof.Claims

section

open Sys2Proof Sys2Proof.Machine Sys2Proof.Claims

/-! ### The queue, frames and the slot (Sections 9 and 10) -/

/-- One step carries out the command at the front of the queue with the queue's rest, and no step ends in
a fault or a refusal: every command and event has an effect. On an empty queue the part idles, which is
the model's choice (log entry 9). -/
def Obligations.StepRunsFrontCommand : Prop :=
  (∀ (c : Instr) (s : State), step { s with pending := c :: s.pending } = exec c s) ∧
    (∀ s : State, s.pending = [] → step s = .next s) ∧ ∀ s : State, ∃ t, step s = .next t

/-- Bits cross a port most significant first: a transaction holds the bytes that its bits spell, eight by
eight, and a last byte of fewer than eight bits is discarded (R158). Numbers cross it most significant byte
first, and a command's field is read back as the number that was sent; a rate crosses in two's complement
(R173). -/
def Obligations.NumbersMostSignificantFirst : Prop :=
  (∀ (w v : Nat) (front back : List Byte), v < 256 ^ w →
    (be w v).length = w ∧ field (front ++ be w v ++ back) front.length w = v) ∧
  (∀ w v : Nat, be (w + 1) v = BitVec.ofNat 8 (v / 256 ^ w) :: be w (v % 256 ^ w)) ∧
  (∀ (r : Int) (front back : List Byte), -2147483648 ≤ r → r ≤ 2147483647 →
    rateField (front ++ rateBytes r ++ back) front.length = r) ∧
  ∀ (bytes : List Byte) (broken : List Bool) (t : Transaction), broken.length < 8 →
    t.bits = bytes.flatMap bitsMostSignificantFirst ++ broken → t.bytes = bytes

/-- A command frame of at most 43 parameter bytes is well-formed, whatever bytes are clocked behind it;
cut short, with a length byte outside 2..45, or with CRC bytes other than those of the bytes they
cover, a frame is bad (R159, R174). -/
def Obligations.CommandFrameJudged : Prop :=
  (∀ (c : Command) (extra : List Byte), c.params.length ≤ 43 → judgeFrame (frameOf c ++ extra) = some c) ∧
  (∀ (c : Command) (k : Nat), c.params.length ≤ 43 → k < (frameOf c).length →
    judgeFrame ((frameOf c).take k) = none) ∧
  (∀ (n : Byte) (rest : List Byte), n.toNat < 2 ∨ 45 < n.toNat → judgeFrame (n :: rest) = none) ∧
  (∀ (covered extra : List Byte) (hi lo : Byte), covered.length = (covered.headD 0).toNat + 1 →
    (hi.toNat * 256 + lo.toNat ≠ (crc covered).toNat) → judgeFrame (covered ++ hi :: lo :: extra) = none)

/-- A command write at the slot (R160, R161): what each kind of frame makes of each state of the slot.
Nothing else of the part changes but what was sent, the bits of $FF at every clock. The frame is the whole
bytes behind the type byte; a broken last byte is no part of it (R158, R159). That the transaction is one
event with its bits, and the operand fellBeforeNegation, are the model's reading (log entry 13, DEDUCED). -/
def Obligations.CommandWriteAtSlot : Prop :=
  ∀ (p : Port) (t : Transaction) (frame : List Byte) (s : State), s.resetAsserted = false →
    (s.ports.get p).resetAsserted = false → t.fellBeforeNegation = false → t.bytes = 0xC3 :: frame →
    ∃ slot : Slot,
      exec (.commandWrite p t) s =
        .next (s.putPort p { s.ports.get p with slot := slot, sdo := List.replicate t.bits.length true }) ∧
      (∀ c, judgeFrame frame = some c →
        ((s.ports.get p).slot = .empty → slot = .pending c false false) ∧
        (∀ r, (s.ports.get p).slot = .ready r → slot = .pending c false true) ∧
        (∀ c' d o, (s.ports.get p).slot = .pending c' d o → slot = .pending c' true o)) ∧
      (judgeFrame frame = none →
        ((s.ports.get p).slot = .empty → slot = .ready
          ⟨.badFrame, 0, (s.ports.get p).sessionNumber, false, false, s.reportsFlag p, s.inboxFlag p, []⟩) ∧
        (∀ r, (s.ports.get p).slot = .ready r → slot = .ready
          ⟨.badFrame, 0, (s.ports.get p).sessionNumber, false, true, s.reportsFlag p, s.inboxFlag p, []⟩) ∧
        (∀ c' d o, (s.ports.get p).slot = .pending c' d o → slot = .pending c' true o))

/-- A transaction changes nothing of the part but what was sent when a reset input is asserted, when
nCSn fell before the last negation of one, when it has no whole byte, or when its type is neither $C3
nor $3C (R158, R168, R172). Under an asserted reset input nothing is driven; otherwise the bits of $FF are
sent at every clock. That the transaction is one event with its bits, and the operand fellBeforeNegation, are
the model's reading (log entry 13, DEDUCED). -/
def Obligations.OtherTransactionsIgnored : Prop :=
  ∀ (p : Port) (t : Transaction) (s : State),
    (s.resetAsserted = true ∨ (s.ports.get p).resetAsserted = true ∨ t.fellBeforeNegation = true ∨
      t.bytes = [] ∨ (t.bytes.head? ≠ some 0xC3 ∧ t.bytes.head? ≠ some 0x3C)) →
    ∀ i, i = .commandWrite p t ∨ i = .responseRead p t →
      exec i s = .next (s.putPort p { s.ports.get p with
        sdo := if s.resetAsserted = true ∨ (s.ports.get p).resetAsserted = true then []
               else List.replicate t.bits.length true })

/-- A response read (R164): $FF from an EMPTY slot, $00 from a PENDING one, $5A and the frame from a READY
one, and $FF for every further byte; $FF during the type byte, and bytes most significant bit first (R158).
The slot becomes EMPTY exactly when it was READY and its last CRC byte was clocked out whole. Where the
command was executed within the read, $00 has been sent, the read goes on with $FF, and the READY response
waits. Nothing else of the part changes. That the read is one event with its bits, that a last byte cut short
is sent as far as it was clocked, and the operand executedWithin, with a READY slot also where that fits no
run, are the model's reading (log entry 13, DEDUCED). -/
def Obligations.ResponseReadSendsSlot : Prop :=
  ∀ (p : Port) (t : Transaction) (rest : List Byte) (s : State), s.resetAsserted = false →
    (s.ports.get p).resetAsserted = false → t.fellBeforeNegation = false → t.bytes = 0x3C :: rest →
    ∃ (slot : Slot) (answer : List Byte),
      exec (.responseRead p t) s =
        .next (s.putPort p { s.ports.get p with
          slot := slot
          sdo := ((0xFF :: answer).flatMap bitsMostSignificantFirst ++
            List.replicate t.bits.length true).take t.bits.length }) ∧
      ((s.ports.get p).slot = .empty → answer = [0xFF] ∧ slot = .empty) ∧
      (∀ c d o, (s.ports.get p).slot = .pending c d o → answer = [0x00] ∧ slot = .pending c d o) ∧
      (∀ r, (s.ports.get p).slot = .ready r →
        (t.executedWithin = true → answer = [0x00] ∧ slot = .ready r) ∧
        (t.executedWithin = false → answer = 0x5A :: r.frame ∧
          (r.frame.length + 1 ≤ rest.length → slot = .empty) ∧
          (rest.length < r.frame.length + 1 → slot = .ready r)))

/-- What `answered` makes of a state: the slot READY with the response of the command, its session
number and the REPORTS and INBOX flags those at the end of the event, its frame as Table 10-7 lays it
out; nothing else changed (R163, R176). -/
def Obligations.AnswerMakesSlotReady : Prop :=
  ∀ (p : Port) (c : Command) (d o : Bool) (r : Result) (payload : List Byte) (t : State),
    let f : Response :=
      { result := r, tag := c.tag, session := (t.ports.get p).sessionNumber, dropped := d, overwrote := o,
        reports := decide ((t.reports.get p).reports ≠ []),
        inbox := decide ((t.inboxes.get p).records ≠ []), payload := payload }
    answered p c d o r payload t =
      { t with ports := t.ports.put p { t.ports.get p with slot := .ready f } } ∧
    (∀ q, q ≠ p → (answered p c d o r payload t).ports.get q = t.ports.get q) ∧
    f.frame =
      let covered := [BitVec.ofNat 8 (4 + payload.length), r.code, c.tag, (t.ports.get p).sessionNumber,
        BitVec.ofNat 8 (d.toNat + 2 * o.toNat + 4 * f.reports.toNat + 8 * f.inbox.toNat)] ++ payload
      covered ++ be 2 (crc covered).toNat

/-- A pending command whose code is none of the 38 of Table 10-6 is answered UNKNOWN_COMMAND, whatever
the session, and has no effect (R162). The answer stands in s with an outstanding tick of local elapsed time
taken, which is the model's choice (log entry 5, DEDUCED); with fewer than 100 periods since the last tick
that is s. -/
def Obligations.UnassignedCodeIsUnknown : Prop :=
  ∀ (p : Port) (c : Command) (d o : Bool) (s : State), Pends p c d o s →
    c.code.toNat ∉ [0x01, 0x02, 0x03, 0x04, 0x05, 0x06, 0x10, 0x11, 0x12, 0x13, 0x20, 0x21, 0x22, 0x23,
      0x30, 0x31, 0x32, 0x33, 0x34, 0x35, 0x36, 0x40, 0x41, 0x42, 0x43, 0x44, 0x50, 0x51, 0x52, 0x53,
      0x54, 0x55, 0x58, 0x60, 0x61, 0x70, 0x71, 0x72] →
    exec (.unknownCommand p) s = .next (answered p c d o .unknownCommand [] s.settleTick)

/-- The checks before a command's own rule, for each of the 38 commands: a detached port is answered
NOT_ATTACHED for all but ATTACH, READ_TIME and STATUS; then the ten commands of Table 2-2 from a port that
is not the holder NOT_AUTHORITY; then a short parameter block BAD_PARAM. A command so refused has no
effect (R36, R162). -/
def Obligations.ChecksBeforeOwnRule : Prop :=
  ∀ (i : Instr) (p : Port) (row : CommandRow) (c : Command) (d o : Bool) (s : State),
    rowOf i = some (p, row) → Pends p c d o s → c.code = row.code →
    (row.anySession = true ↔ i = .attach p ∨ i = .readTime p ∨ i = .status p) ∧
    (row.needsAuthority = true ↔ i = .loadTime p ∨ i = .stepTime p ∨ i = .setRate p ∨ i = .startSlew p ∨
      i = .stopSlew p ∨ i = .setQuota p ∨ i = .holdReleases p ∨ i = .resumeReleases p ∨ i = .armAlign p ∨
      i = .disarmAlign p) ∧
    (row.anySession = false → ¬ s.attached p →
      exec i s = .next (answered p c d o .notAttached [] s.settleTick)) ∧
    ((row.anySession = false → s.attached p) → row.needsAuthority = true → ¬ s.isHolder p →
      exec i s = .next (answered p c d o .notAuthority [] s.settleTick)) ∧
    ((row.anySession = false → s.attached p) → (row.needsAuthority = true → s.isHolder p) →
      c.params.length < row.length → exec i s = .next (answered p c d o .badParam [] s.settleTick))

/-- A port whose slot holds no PENDING command of the row's code has no execution event of that row, and
nothing changes. The model's choice (log entry 8): the queue may bring an event that does not arise. -/
def Obligations.NoPendingCommandNoEvent : Prop :=
  ∀ (i : Instr) (p : Port) (row : CommandRow) (s : State), rowOf i = some (p, row) →
    (∀ c d o, Pends p c d o s → c.code ≠ row.code) → exec i s = .next s

/-- The tick of local elapsed time that the hundredth REFCLK period calls for is taken first by the next
event that reads either time: a command carried out, an end, an edge, a port reset, the next period. This
is the model's choice (log entry 5), read from R8 and from R12, which takes the two times together. With
fewer than 100 periods since the last tick none is outstanding. -/
def Obligations.OutstandingTickTakenFirst : Prop :=
  ∀ s : State, s.time.periods ≤ 100 →
    let u := s.settleTick
    (s.time.periods < 100 → u = s) ∧
    (s.time.periods = 100 → u = { s with time := { s.time with
      elapsed := (s.time.elapsed + 1) % 281474976710656, periods := 0 } }) ∧
    (∀ (i : Instr) (p : Port) (row : CommandRow) (c : Command) (d o : Bool), rowOf i = some (p, row) →
      Pends p c d o s → c.code = row.code → exec i s = exec i u) ∧
    (∀ i : Instr, i = .slewEnd ∨ i = .leaseExpiry ∨ (∃ o, i = .pulseEnd o) ∨ (∃ p, i = .portReset p) ∨
        s.resetAsserted = false ∧ i = .refclkAdvance →
      exec i s = exec i u) ∧
    ∀ (l : EvLine) (level : Level) (held : Nat), s.resetAsserted = false → 30 ≤ held →
      level ≠ (s.events.lines.get l).level →
      exec (.edgeRecognized l level held) s = exec (.edgeRecognized l level held) u

/-- A refused command has no effect beyond its answer (R162): of each of the 38 commands and for every
state, an answer with a result code of $10 or more leaves everything but the slot as it stood at the
execution event. That state is s with an outstanding tick of local elapsed time taken, which is the model's
choice (log entry 5, DEDUCED); with fewer than 100 periods since the last tick it is s. -/
def Obligations.RefusedCommandsChangeNothing : Prop :=
  ∀ (i : Instr) (p : Port) (row : CommandRow) (c : Command) (d o : Bool) (s t : State) (r : Response),
    rowOf i = some (p, row) → Pends p c d o s → c.code = row.code → exec i s = .next t →
    (t.ports.get p).slot = .ready r → 0x10 ≤ r.result.code.toNat →
    t = s.settleTick.putSlot p (.ready r)

/-! ### Sessions and resets (Section 9) -/

/-- ATTACH (R166): from DETACHED the session begins with the next session number, 0 after 255, and the
answer gives that number and the sequence number of the port's next report; from ATTACHED nothing
changes. -/
def Obligations.AttachBeginsSession : Prop :=
  ∀ (p : Port) (c : Command) (d o : Bool) (s : State), Executes Row.attach p c d o s →
    let u := s.settleTick
    let x := u.ports.get p
    (x.session = .detached → exec (.attach p) s =
      .next (answered p c d o .ok
        ((x.sessionNumber + 1) :: be 2 (u.reports.get p).nextSequence.toNat)
        (u.putPort p { x with session := .attached, sessionNumber := x.sessionNumber + 1 }))) ∧
    (x.session = .attached → exec (.attach p) s = .next (answered p c d o .alreadyAttached [] u))

/-- The message record that an ARMED entry names. -/
def Sys2Proof.Claims.messageNamed : EntryState → Option RecordNo
  | .armed e => match e.action with
    | .deliver _ h => some h.record
    | .line _ _ => none
  | _ => none

/-- The Calendar's part of the end of the session of `p` (R89): its ARMED entries without KEEP finish with
cause OWNER_DETACHED in list order, leave the armed list and join the free-record queue's tail, and those
that deliver drop their references in that order. Every other record is untouched, and no report is sent. -/
abbrev Sys2Proof.Claims.EntriesEnded (p : Port) (u v : State) : Prop :=
  let ended := u.calendar.armed.filter fun i => u.calendar.records[i].content.endsWith p
  v = { u with
    store := (ended.filterMap fun i => messageNamed u.calendar.records[i].content).foldl
      (fun store j => store.dropReference j) u.store
    calendar := { u.calendar with
      records := v.calendar.records
      armed := u.calendar.armed.filter fun i => !u.calendar.records[i].content.endsWith p
      freeRecords := u.calendar.freeRecords ++ ended } } ∧
  ∀ i : RecordNo,
    (∀ e, u.calendar.records[i].content = .armed e → e.owner = p → e.keep = false →
      v.calendar.records[i] = ⟨u.calendar.records[i].gen, .finished e .ownerDetached⟩) ∧
    (u.calendar.records[i].content.endsWith p = false → v.calendar.records[i] = u.calendar.records[i])

/-- The Time Authority's part (R37): the holder loses the authority with cause DETACHED, whole as R33 and
R34 give; a waiter leaves the queue, those behind it moving forward; for any other port nothing changes. -/
abbrev Sys2Proof.Claims.AuthorityEnded (p : Port) (u v : State) : Prop :=
  (∀ h, u.authority.holder = some h → h.port = p → AuthorityLoss h .detached u v) ∧
  (¬ u.isHolder p → v = { u with authority := { u.authority with
    waiters := u.authority.waiters.filter fun w => decide (w.port ≠ p) } })

/-- The Message Store's part (R61): the drafts of `p` abandoned in ascending record number, their blocks to
the free list tail in chain order, their records FREE at the free-record queue's tail. -/
abbrev Sys2Proof.Claims.DraftsEnded (p : Port) (u v : State) : Prop :=
  let drafts := (List.finRange 128).filter fun i : RecordNo => u.store.records[i].content.isDraftOf p
  let blocks := drafts.flatMap fun i => u.store.records[i].content.chain
  v = { u with store := { u.store with
    records := v.store.records
    freeBlocks := u.store.freeBlocks ++ blocks
    freeRecords := u.store.freeRecords ++ drafts
    charge := u.store.charge.put p (u.store.charge.get p - blocks.length) } } ∧
  ∀ i : RecordNo, v.store.records[i] =
    if u.store.records[i].content.isDraftOf p = true then ⟨u.store.records[i].gen, .free⟩
    else u.store.records[i]

/-- The part of the Event Line Unit and the Output Line Unit (R129, R133): every line of `p` is released,
an event line to its unclaimed settings with its capture records discarded, an output line LOW with no
pulse in flight; the other ports' lines are untouched. -/
abbrev Sys2Proof.Claims.ClaimsEnded (p : Port) (u v : State) : Prop :=
  v = { u with
    outputs := v.outputs
    events := { u.events with lines := v.events.lines, outOwner := v.events.outOwner } } ∧
  (∀ l, v.events.lines.get l = if (u.events.lines.get l).owner = some p then
      ⟨none, .rising, 0, (u.events.lines.get l).level, [], 0⟩ else u.events.lines.get l) ∧
  ∀ o, v.events.outOwner.get o =
      (if u.events.outOwner.get o = some p then none else u.events.outOwner.get o) ∧
    v.outputs.get o = if u.events.outOwner.get o = some p then ⟨.low, none⟩ else u.outputs.get o

/-- The Delivery Unit's part (R108): the inbox of `p` flushed, oldest first, each record's reference dropped
as it goes, and both settings restored. -/
abbrev Sys2Proof.Claims.InboxEnded (p : Port) (u v : State) : Prop :=
  v = { u with
    store := (u.inboxes.get p).records.foldl (fun store x => store.dropReference x.message.record) u.store
    inboxes := u.inboxes.put p ⟨[], .accepting, true⟩ }

/-- The end of the session of `p`, whole: the parts of the blocks in the order of Table 9-2, every report
for `p` discarded from its start (R156), and at its end the report queue of `p` empty with its mask all ON
and its counter as it stood, and `p` DETACHED with its session number kept. Nothing else changes: the
inboxes and report queues of the other ports are as those parts leave them. What this comes to in a sound
state follows: `p` is neither holder nor waiter, owns no line and holds nothing, and the other ports' slots,
sessions and claims are as they were. That a port is `departing` within the event is the model's own field
(log entry 15). -/
abbrev Sys2Proof.Claims.SessionEnded (p : Port) (u t : State) : Prop :=
  (∃ v1 v2 v3 v4 v5 : State, EntriesEnded p { u with departing := some p } v1 ∧ AuthorityEnded p v1 v2 ∧
    DraftsEnded p v2 v3 ∧ ClaimsEnded p v3 v4 ∧ InboxEnded p v4 v5 ∧
    t = { v5 with
      reports := v5.reports.put p
        ⟨[], Vector.replicate 13 true, (u.reports.get p).nextSequence, false⟩
      ports := u.ports.put p { u.ports.get p with session := .detached }
      departing := none }) ∧
  ¬ t.attached p ∧ (t.ports.get p).sessionNumber = (u.ports.get p).sessionNumber ∧
  ¬ t.isHolder p ∧ (∀ w ∈ t.authority.waiters, w.port ≠ p) ∧
  (∀ line ∈ Line.all, t.ownerOf line ≠ some p) ∧ HoldsNothing t p ∧
  (t.reports.get p).nextSequence = (u.reports.get p).nextSequence ∧
  t.time = u.time ∧ t.store.quota = u.store.quota ∧
  ∀ q, q ≠ p → t.ports.get q = u.ports.get q ∧
    (∀ line ∈ Line.all, t.ownerOf line = some q ↔ u.ownerOf line = some q)

/-- DETACH (R167): the session ends with the parts of all blocks in the order of Table 9-2 (R169), the
Calendar's (R89), the Time Authority's with cause DETACHED (R37), the Message Store's (R61), the lines'
(R129, R133), the inbox's (R108) and the report queue's (R156); the answer is OK with no payload, the number
of the session ended, and the REPORTS and INBOX flags clear. That a port is departing within the event is a
field of the model's own (log entry 15). -/
def Obligations.DetachEndsSession : Prop :=
  ∀ (p : Port) (c : Command) (d o : Bool) (s : State), Executes Row.detach p c d o s → SessionsSound s →
    let u := s.settleTick
    ∃ t, exec (.detach p) s = .next (answered p c d o .ok [] t) ∧ SessionEnded p u t ∧
      t.reportsFlag p = false ∧ t.inboxFlag p = false ∧ (t.ports.get p).slot = (u.ports.get p).slot

/-- The assertion of nPRSTn (R168): a transaction's bytes, a PENDING command and a READY response are
discarded and the slot is EMPTY; the session of an attached port ends at the same event, with the parts of
all blocks in the order of Table 9-2 (R169); of a detached one nothing more changes. -/
def Obligations.PortResetEndsSession : Prop :=
  ∀ (p : Port) (s : State), SessionsSound s →
    let u := s.settleTick
    let w := u.putPort p { u.ports.get p with slot := .empty, resetAsserted := true, sdo := [] }
    ∃ t, exec (.portReset p) s = .next t ∧
      (t.ports.get p).slot = .empty ∧ (t.ports.get p).resetAsserted = true ∧ (t.ports.get p).sdo = [] ∧
      (s.attached p → SessionEnded p w t) ∧ (¬ s.attached p → t = w)

/-- The negations of the reset inputs: that of nPRSTn changes nothing but the input itself (R168); that
of nRESET takes the recognized level of each event line from its pin (R115) and lets both times advance
from 0 (R8), and changes nothing else. -/
def Obligations.ResetNegations : Prop :=
  (∀ (p : Port) (s : State), exec (.portResetNegation p) s =
    .next { s with ports := s.ports.put p { s.ports.get p with resetAsserted := false } }) ∧
  ∀ (pins : PerEv Level) (s : State), s.resetAsserted = true →
    ∃ t, exec (.resetNegation pins) s = .next t ∧
      t = { s with resetAsserted := false, events := { s.events with lines := t.events.lines } } ∧
      ∀ l, t.events.lines.get l = { s.events.lines.get l with level := pins.get l }

/-- Device reset (R21, R38, R62, R91, R109, R130, R144, R157, R172): whatever the state, every block
holds its reset values. That the nPRSTn pins, being inputs, and the model's own counter and queue stay as
they are is the model's (log entry 3), and so are the recognized levels until the negation of nRESET (log
entry 2). -/
def Obligations.DeviceResetValues : Prop :=
  ∀ s : State, ∃ t, exec .deviceReset s = .next t ∧ t.resetAsserted = true ∧
    t.time = ⟨0, ⟨0, 0⟩, 0, .free, 0, none, 0, 0⟩ ∧ t.authority = ⟨none, []⟩ ∧
    (∀ i : RecordNo, t.store.records[i] = ⟨0, .free⟩ ∧ t.calendar.records[i] = ⟨0, .free⟩) ∧
    t.store.freeRecords = List.finRange 128 ∧ t.store.freeBlocks = List.finRange 512 ∧
    t.calendar.armed = [] ∧ t.calendar.freeRecords = List.finRange 128 ∧
    t.calendar.releaseState = .running ∧ t.calendar.nextSequence = 0 ∧ t.events.arming = none ∧
    (∀ p, t.store.charge.get p = 0 ∧ t.store.quota.get p = 128 ∧ t.inboxes.get p = ⟨[], .accepting, true⟩ ∧
      (t.reports.get p).reports = [] ∧ (∀ k, (h : k < 13) → (t.reports.get p).mask[k] = true) ∧
      (t.reports.get p).nextSequence = 0 ∧ t.attention p = false ∧
      t.ports.get p = ⟨.detached, 0, .empty, (s.ports.get p).resetAsserted, []⟩) ∧
    (∀ l, (t.events.lines.get l).owner = none ∧ (t.events.lines.get l).select = .rising ∧
      (t.events.lines.get l).compensation = 0 ∧ (t.events.lines.get l).captures = [] ∧
      (t.events.lines.get l).drops = 0) ∧
    (∀ o, t.events.outOwner.get o = none ∧ t.outputs.get o = ⟨.low, none⟩) ∧
    t.draws = s.draws ∧ t.pending = s.pending

/-- STATUS, QUERY_LINES and QUERY_ENTRY change nothing, and their answers hold the items of R171, R114
and R86 in the layout of Table 10-8. QUERY_ENTRY is refused with RANGE for a record number outside 0..127
and with STALE_HANDLE for a stale handle. -/
def Obligations.QueriesChangeNothing : Prop :=
  ∀ (p : Port) (c : Command) (d o : Bool) (s : State),
    let u := s.settleTick
    (Executes Row.status p c d o s → exec (.status p) s = .next (answered p c d o .ok
      ([p.code, (u.ports.get p).session.code, (u.ports.get p).sessionNumber, u.time.timeState.code,
          u.time.epoch, portByte u.authority.holderPort, BitVec.ofNat 8 u.authority.waiters.length,
          u.calendar.releaseState.code, BitVec.ofNat 8 u.calendar.armed.length] ++
        be 2 u.store.freeBlocks.length ++ [BitVec.ofNat 8 u.store.freeRecords.length] ++
        be 2 (u.store.charge.get p) ++ be 2 (u.store.quota.get p) ++
        [BitVec.ofNat 8 (u.inboxes.get p).records.length,
          BitVec.ofNat 8 (u.reports.get p).reports.length]) u)) ∧
    (Executes Row.queryLines p c d o s → exec (.queryLines p) s = .next (answered p c d o .ok
      ((EvLine.all.map fun l => portByte (u.events.lines.get l).owner) ++
        (OutLine.all.map fun o => portByte (u.events.outOwner.get o)) ++
        (EvLine.all.flatMap fun l => (u.events.lines.get l).select.code ::
          be 2 (u.events.lines.get l).compensation ++
          [BitVec.ofNat 8 (u.events.lines.get l).captures.length,
            BitVec.ofNat 8 (u.events.lines.get l).drops]) ++
        (match u.events.arming with
          | none => List.replicate 16 0
          | some a => [1, a.mode.code, a.line.code] ++ be 4 a.target.sec ++ be 4 a.target.ns ++
              be 4 a.guard ++ [a.port.code])) u)) ∧
    (Executes Row.queryEntry p c d o s →
      (128 ≤ (byteField c.params 0).toNat → exec (.queryEntry p) s = .next (answered p c d o .range [] u)) ∧
      ∀ i : RecordNo, (byteField c.params 0).toNat = i.val →
        (u.calendar.records[i].content = .free ∨ u.calendar.records[i].gen ≠ byteField c.params 1 →
          exec (.queryEntry p) s = .next (answered p c d o .staleHandle [] u)) ∧
        ∀ (e : Entry) (state cause : Byte), u.calendar.records[i].gen = byteField c.params 1 →
          (u.calendar.records[i].content = .armed e ∧ state = 1 ∧ cause = 0 ∨
            ∃ why, u.calendar.records[i].content = .finished e why ∧ state = 2 ∧ cause = why.code) →
          exec (.queryEntry p) s = .next (answered p c d o .ok
            ([state, byteField c.params 1, e.owner.code, e.action.kindCode] ++ be 4 e.release.sec ++
              be 4 e.release.ns ++ be 4 e.sequence.toNat ++ [e.flagsByte] ++
              (match e.period with
                | some x => be 2 x.sec ++ be 4 x.ns
                | none => List.replicate 6 0) ++
              be 2 (e.remaining.getD 0) ++
              (match e.action with
                | .deliver ts h =>
                  [targetByte ts, BitVec.ofNat 8 h.record.val, h.gen] ++ List.replicate 6 0
                | .line out a => [0, 0, 0, out.code, a.code] ++ be 4 a.width) ++
              be 2 e.occurrences ++ be 2 e.missed ++ [cause]) u))

/-! ### Reports (Section 8) -/

/-- TAKE_REPORT (R153, R150): EMPTY on an empty queue; otherwise the head is removed and answered, and an
open REPORTS_LOST is closed. The answer is the number left, the header of Table 10-12, and the fields that
Table 10-13 gives each of the thirteen kinds (R177). SET_REPORT_MASK (R148): BAD_PARAM where one of the
thirteen settings is neither $00 nor $01, or REPORTS_LOST is OFF; otherwise the mask takes the settings and
the answer gives the previous ones with the number of reports in the queue. -/
def Obligations.ReportCommands : Prop :=
  ∀ (p : Port) (c : Command) (d o : Bool) (s : State),
    let u := s.settleTick
    let q := u.reports.get p
    (Executes Row.takeReport p c d o s →
      (q.reports = [] → exec (.takeReport p) s = .next (answered p c d o .empty [] u)) ∧
      ∀ (r : Report) (rest : List Report), q.reports = r :: rest →
        exec (.takeReport p) s = .next (answered p c d o .ok
          ([BitVec.ofNat 8 rest.length, reportCode r.body] ++ be 2 r.sequence.toNat ++
            [r.cause.epoch] ++ be 4 r.cause.point.sec ++ be 4 r.cause.point.ns ++ reportFields r.body)
          (u.putReports p { q with reports := rest, lostOpen := false }))) ∧
    (Executes Row.setReportMask p c d o s →
      ((∃ k < 13, byteField c.params k ≠ 0 ∧ byteField c.params k ≠ 1) ∨ byteField c.params 12 = 0 →
        exec (.setReportMask p) s = .next (answered p c d o .badParam [] u)) ∧
      ((∀ k < 13, byteField c.params k = 0 ∨ byteField c.params k = 1) → byteField c.params 12 = 1 →
        ∃ mask : Vector Bool 13,
          exec (.setReportMask p) s = .next (answered p c d o .ok
            (q.mask.toList.map (fun b => if b then 1 else 0) ++ [BitVec.ofNat 8 q.reports.length])
            (u.putReports p { q with mask := mask })) ∧
          ∀ k, (h : k < 13) → (mask[k] = true ↔ byteField c.params k = 1)))

/-- The placing of a report that arrives for a port (R147, R148, R149): discarded for a DETACHED port and
for one whose session is ending (R156); not stored where its kind is OFF; folded into an open
REPORTS_LOST; stored at the tail with the next number below 15 reports; and at 15 a REPORTS_LOST with
count 1 stored in its place, open. No other queue and no other part of the state changes. -/
def Obligations.ReportPlacedInQueue : Prop :=
  ∀ (p : Port) (cause : Stamp) (body : ReportBody) (s : State),
    let q := s.reports.get p
    ((¬ s.attached p ∨ s.departing = some p ∨ q.mask[body.kind] = false) → report p cause body s = s) ∧
    (s.attached p → s.departing ≠ some p → q.mask[body.kind] = true →
      (∀ (front : List Report) (r : Report) (count : Nat) (newest : Stamp), q.lostOpen = true →
        q.reports = front ++ [r] → r.body = .reportsLost count newest →
        report p cause body s = s.putReports p { q with
          reports := front ++ [{ r with body := .reportsLost (min 65535 (count + 1)) cause }] }) ∧
      (q.lostOpen = false → q.reports.length ≤ 14 →
        report p cause body s = s.putReports p { q with
          reports := q.reports ++ [⟨q.nextSequence, cause, body⟩], nextSequence := q.nextSequence + 1 }) ∧
      (q.lostOpen = false → 15 ≤ q.reports.length →
        report p cause body s = s.putReports p { q with
          reports := q.reports ++ [⟨q.nextSequence, cause, .reportsLost 1 cause⟩]
          nextSequence := q.nextSequence + 1, lostOpen := true }))

/-- nATTNn is asserted while the port is ATTACHED and has a report, or an inbox record with attention ON;
otherwise it is negated (R155, R105). A DETACHED port's line is negated. -/
def Obligations.AttentionLineAsserted : Prop :=
  ∀ (p : Port) (s : State),
    (s.attention p = true ↔ s.attached p ∧
      ((s.reports.get p).reports ≠ [] ∨
        ((s.inboxes.get p).records ≠ [] ∧ (s.inboxes.get p).attention = true))) ∧
    (¬ s.attached p → s.attention p = false)

/-! ### The Time Base (Section 1) -/

/-- READ_TIME (R12), for any port: epoch, seconds, nanoseconds, fraction, time state and local elapsed
time as they stand at the execution event, with no tick of local elapsed time outstanding, so that an
advance is reflected in both times or in neither. It changes no state. -/
def Obligations.ReadTimeAnswersBothTimes : Prop :=
  ∀ (p : Port) (c : Command) (d o : Bool) (s : State), Executes Row.readTime p c d o s →
    let u := s.settleTick
    exec (.readTime p) s = .next (answered p c d o .ok
      ([u.time.epoch] ++ be 4 u.time.now.sec ++ be 4 u.time.now.ns ++ be 4 u.time.frac ++
        [u.time.timeState.code] ++ be 6 u.time.elapsed) u) ∧
    (s.time.periods ≤ 100 → u.time.periods < 100)

/-- LOAD_TIME (R13): RANGE above 999,999,999 ns; otherwise a running slew ends with SLEW_DONE cause LOADED
for the holder, and Common Time takes the given point with fraction 0, the time state SET, the epoch
advanced by one, as a time change with cause LOAD. -/
def Obligations.LoadTimeChangesTime : Prop :=
  ∀ (p : Port) (c : Command) (d o : Bool) (s : State), Executes Row.loadTime p c d o s →
    s.time.periods < 100 →
    let new := pointField c.params 0
    (999999999 < new.ns → exec (.loadTime p) s = .next (answered p c d o .range [] s)) ∧
    (new.ns ≤ 999999999 → ∃ v t,
      exec (.loadTime p) s = .next (answered p c d o .ok
        (be 4 s.time.now.sec ++ be 4 s.time.now.ns ++ be 4 new.sec ++ be 4 new.ns ++ [s.time.epoch + 1]) t) ∧
      (s.time.slew = none → v = s) ∧
      (∀ x, s.time.slew = some x →
        v = report p s.stamp (.slewDone .loaded x.rate (distance s.time.elapsed x.stop))
          { s with time := { s.time with slew := none } }) ∧
      TimeChange v new 0 .set .load t)

/-- STEP_TIME (R14), its checks in their order and the step: Common Time is moved by the offset, the
fraction and the time state kept, as a time change with cause STEP. -/
def Obligations.StepTimeChangesTime : Prop :=
  ∀ (p : Port) (c : Command) (d o : Bool) (s : State), Executes Row.stepTime p c d o s →
    s.time.periods < 100 →
    let sign := byteField c.params 0
    let offset := pointField c.params 1
    let stepped : Point → Prop := fun new => ∃ t,
      exec (.stepTime p) s = .next (answered p c d o .ok
        (be 4 s.time.now.sec ++ be 4 s.time.now.ns ++ be 4 new.sec ++ be 4 new.ns ++ [s.time.epoch + 1]) t) ∧
      TimeChange s new s.time.frac s.time.timeState .step t
    (sign ≠ 0 → sign ≠ 1 → exec (.stepTime p) s = .next (answered p c d o .badParam [] s)) ∧
    (sign = 0 ∨ sign = 1 → 2147483647 < offset.sec ∨ 999999999 < offset.ns →
      exec (.stepTime p) s = .next (answered p c d o .range [] s)) ∧
    (offset.sec ≤ 2147483647 → offset.ns ≤ 999999999 → s.time.now.ns ≤ 999999999 →
      (sign = 1 → s.time.now.toNs < offset.toNs →
        exec (.stepTime p) s = .next (answered p c d o .range [] s)) ∧
      (sign = 0 → 4294967296000000000 ≤ s.time.now.toNs + offset.toNs →
        exec (.stepTime p) s = .next (answered p c d o .range [] s)) ∧
      ∀ new : Point, new.ns ≤ 999999999 →
        (sign = 1 → new.toNs + offset.toNs = s.time.now.toNs → stepped new) ∧
        (sign = 0 → new.sec ≤ 4294967295 → new.toNs = s.time.now.toNs + offset.toNs → stepped new))

/-- SET_RATE (R15): RANGE outside −67,108,864..+67,108,864; otherwise the base rate takes the new value,
every advance from then on uses it, and the answer gives the rate replaced. Nothing else changes, and
it may be issued in either time state. -/
def Obligations.SetRateReplacesBaseRate : Prop :=
  ∀ (p : Port) (c : Command) (d o : Bool) (s : State), Executes Row.setRate p c d o s →
    s.time.periods < 100 →
    let rate := rateField c.params 0
    let t := { s with time := { s.time with baseRate := rate } }
    (rate < -67108864 ∨ 67108864 < rate → exec (.setRate p) s = .next (answered p c d o .range [] s)) ∧
    (-67108864 ≤ rate → rate ≤ 67108864 →
      exec (.setRate p) s = .next (answered p c d o .ok (rateBytes s.time.baseRate) t) ∧
      t.time.increment = 42949672960 + rate + t.time.slewRate)

/-- START_SLEW and STOP_SLEW (R16, R17): the rate checked before the duration; a running slew ends first,
with SLEW_DONE cause REPLACED for the issuing holder; the new slew ends duration × 1,000 µs of local
elapsed time later. STOP_SLEW ends a slew without a report and answers its remaining duration and rate,
both 0 when none runs. -/
def Obligations.SlewStartsAndStops : Prop :=
  ∀ (p : Port) (c : Command) (d o : Bool) (s : State),
    let u := s.settleTick
    (Executes Row.startSlew p c d o s →
      let rate := rateField c.params 0
      let ms := field c.params 4 4
      let stop := (u.time.elapsed + ms * 1000) % 281474976710656
      (rate < -67108864 ∨ 67108864 < rate ∨ ms < 1 ∨ 1000000 < ms →
        exec (.startSlew p) s = .next (answered p c d o .range [] u)) ∧
      (-67108864 ≤ rate → rate ≤ 67108864 → 1 ≤ ms → ms ≤ 1000000 → ∃ v : State,
        exec (.startSlew p) s = .next (answered p c d o .ok (be 6 stop)
          { v with time := { v.time with slew := some ⟨rate, stop⟩ } }) ∧
        (u.time.slew = none → v = u) ∧
        (∀ x, u.time.slew = some x →
          v = report p u.stamp (.slewDone .replaced x.rate (distance u.time.elapsed x.stop))
            { u with time := { u.time with slew := none } }))) ∧
    (Executes Row.stopSlew p c d o s →
      (u.time.slew = none →
        exec (.stopSlew p) s = .next (answered p c d o .ok (List.replicate 8 0) u)) ∧
      ∀ x, u.time.slew = some x →
        exec (.stopSlew p) s = .next (answered p c d o .ok
          (be 4 (distance u.time.elapsed x.stop) ++ rateBytes x.rate)
          { u with time := { u.time with slew := none } }))

/-- The ends that local elapsed time reaches (R18, R136): a slew's end makes the slew absent and sends
SLEW_DONE cause ELAPSED, remaining duration 0, to the holder, or to nobody while VACANT; a pulse's end
returns the line to its return level. Nothing else changes. An end is reached when its distance forward,
counted modulo 2^48, is zero (R8). -/
def Obligations.EndsInElapsedTime : Prop :=
  ∀ s : State,
    let u := s.settleTick
    (∀ x, u.time.slew = some x → distance u.time.elapsed x.stop = 0 →
      let v := { u with time := { u.time with slew := none } }
      (u.authority.holder = none → exec .slewEnd s = .next v) ∧
      ∀ h, u.authority.holder = some h →
        exec .slewEnd s = .next (report h.port u.stamp (.slewDone .elapsed x.rate 0) v)) ∧
    (∀ (o : OutLine) (pl : Pulse), (u.outputs.get o).pulse = some pl →
      distance u.time.elapsed pl.stop = 0 →
      exec (.pulseEnd o) s = .next { u with outputs := u.outputs.put o ⟨pl.returnLevel, none⟩ }) ∧
    ∀ now stop : Nat, now < 281474976710656 → stop < 281474976710656 →
      distance now stop < 281474976710656 ∧ (now + distance now stop) % 281474976710656 = stop

/-- One period of REFCLK (R4, R9, R73). First, every end that local elapsed time has reached and that the
queue has not brought is taken, which gives `v`: the slew end, the pulse ends, and the lease expiry with its
whole loss. That they are taken by then is the model's inference (log entry 16, DEDUCED), and which of them
come before a lease expiry is open (log entry 4); where no end is reached, `v` is `u`. Then Common Time
advances by 10 ns plus the base rate plus the slew rate, carried through fraction, nanoseconds and seconds,
and the entries it reaches are released on time, before the tick that the period may bring (log entry 19);
past the last second it wraps instead, as a time change with cause WRAP. While nRESET is asserted nothing
advances (R8, R21). -/
def Obligations.AdvanceByOneIncrement : Prop :=
  ∀ s : State,
    (s.resetAsserted = true → exec .refclkAdvance s = .next s) ∧
    (s.resetAsserted = false → TimeInRange s.time →
      let u := s.settleTick
      ∃ v : State, DueEndsTaken u v ∧
      (((∀ x ∈ u.time.slew, distance u.time.elapsed x.stop ≠ 0) ∧
        (∀ h ∈ u.authority.holder, distance u.time.elapsed h.expiry ≠ 0) ∧
        ∀ o, ∀ pl ∈ (u.outputs.get o).pulse, distance u.time.elapsed pl.stop ≠ 0) → v = u) ∧
      let units := v.time.now.ns * 4294967296 + v.time.frac +
        (42949672960 + v.time.baseRate + (v.time.slew.map (·.rate)).getD 0).toNat
      let ns := units / 4294967296
      let frac := units % 4294967296
      (∀ new : Point, (ns < 1000000000 ∧ new = ⟨v.time.now.sec, ns⟩ ∨
          1000000000 ≤ ns ∧ v.time.now.sec < 4294967295 ∧ new = ⟨v.time.now.sec + 1, ns - 1000000000⟩) →
        ∃ t, exec .refclkAdvance s = .next t ∧
          Released false { v with time := { v.time with
            now := new, frac := frac, periods := v.time.periods + 1 } } t) ∧
      (1000000000 ≤ ns → v.time.now.sec = 4294967295 → ∃ t, exec .refclkAdvance s = .next t ∧
        TimeChange { v with time := { v.time with periods := v.time.periods + 1 } }
          ⟨0, ns - 1000000000⟩ frac v.time.timeState .wrap t))

/-- Local elapsed time advances by one after each 100 periods of REFCLK, from 281,474,976,710,655 to 0
(R8); before the hundredth there is no such event (log entry 8). Nothing else changes. -/
def Obligations.ElapsedTickCountsMicroseconds : Prop :=
  ∀ s : State,
    (100 ≤ s.time.periods → exec .elapsedTick s = .next { s with time := { s.time with
      elapsed := (s.time.elapsed + 1) % 281474976710656, periods := s.time.periods - 100 } }) ∧
    (s.time.periods < 100 → exec .elapsedTick s = .next s)

/-! ### The Time Authority (Section 2) -/

/-- CLAIM_AUTHORITY in each state of the authority (R25, R26, R27): RANGE outside 10..60,000 ms before all
else; granted at once when VACANT; the holder's lease restarted, ALREADY_HOLDER; a waiter's position,
ALREADY_WAITING; and the queue's tail joined, WAITING. -/
def Obligations.ClaimAuthorityOutcomes : Prop :=
  ∀ (p : Port) (c : Command) (d o : Bool) (s : State), Executes Row.claimAuthority p c d o s →
    let u := s.settleTick
    let ms := field c.params 0 2
    let expiry := (u.time.elapsed + ms * 1000) % 281474976710656
    let granted := { u with authority := { u.authority with holder := some ⟨p, ms, expiry⟩ } }
    (ms < 10 ∨ 60000 < ms → exec (.claimAuthority p) s = .next (answered p c d o .range [] u)) ∧
    (10 ≤ ms → ms ≤ 60000 →
      (u.authority.holder = none → exec (.claimAuthority p) s =
        .next (answered p c d o .ok (be 2 ms ++ be 6 expiry) granted)) ∧
      ∀ h, u.authority.holder = some h →
        (h.port = p → exec (.claimAuthority p) s =
          .next (answered p c d o .alreadyHolder (be 2 ms ++ be 6 expiry) granted)) ∧
        (h.port ≠ p →
          (∀ (k : Nat) (w : Waiter), u.authority.waiters[k]? = some w → w.port = p →
            (u.authority.waiters.map (·.port)).Nodup → exec (.claimAuthority p) s =
              .next (answered p c d o .alreadyWaiting [BitVec.ofNat 8 (k + 1)] u)) ∧
          ((∀ w ∈ u.authority.waiters, w.port ≠ p) → exec (.claimAuthority p) s =
            .next (answered p c d o .waiting [BitVec.ofNat 8 (u.authority.waiters.length + 1)]
              { u with authority := { u.authority with waiters := u.authority.waiters ++ [⟨p, ms⟩] } }))))

/-- RENEW_AUTHORITY restarts the holder's lease at the length held (R28, R24) and is refused to any other
port; WITHDRAW_CLAIM removes a waiter, those behind it moving forward, and answers the position it held
(R30); a port that does not wait is refused with NOT_WAITING. -/
def Obligations.RenewAndWithdraw : Prop :=
  ∀ (p : Port) (c : Command) (d o : Bool) (s : State), s.time.periods < 100 →
    (Executes Row.renewAuthority p c d o s →
      (∀ h, s.authority.holder = some h → h.port = p →
        let expiry := (s.time.elapsed + h.lease * 1000) % 281474976710656
        exec (.renewAuthority p) s = .next (answered p c d o .ok (be 2 h.lease ++ be 6 expiry)
          { s with authority := { s.authority with holder := some { h with expiry := expiry } } })) ∧
      (¬ s.isHolder p → exec (.renewAuthority p) s = .next (answered p c d o .notAuthority [] s))) ∧
    (Executes Row.withdrawClaim p c d o s →
      (∀ (k : Nat) (w : Waiter), s.authority.waiters[k]? = some w → w.port = p →
        (s.authority.waiters.map (·.port)).Nodup →
        exec (.withdrawClaim p) s = .next (answered p c d o .ok [BitVec.ofNat 8 (k + 1)]
          { s with authority := { s.authority with waiters := s.authority.waiters.eraseIdx k } })) ∧
      ((∀ w ∈ s.authority.waiters, w.port ≠ p) →
        exec (.withdrawClaim p) s = .next (answered p c d o .notWaiting [] s)))

/-- RELEASE_AUTHORITY by the holder (R29) and the expiry of its lease (R31) lose the authority with causes
RELEASED and EXPIRED, each in the order of R33: AUTHORITY_LOST for an expiry, ALIGN_RESULT CANCELLED where an
align was armed, the releases of a HELD Calendar, late and in list order (R83), AUTHORITY_GRANTED for the
oldest waiter (R34). The loss with cause DETACHED stands in DetachEndsSession and PortResetEndsSession. The
release is answered with the port that holds the authority afterwards, or
VACANT; from any other port it is refused. -/
def Obligations.LossHandsAuthorityOver : Prop :=
  ∀ (s : State),
    let u := s.settleTick
    (∀ (p : Port) (c : Command) (d o : Bool), Executes Row.releaseAuthority p c d o s →
      (∀ h, u.authority.holder = some h → h.port = p → ∃ t,
        exec (.releaseAuthority p) s = .next (answered p c d o .ok
          [portByte (u.authority.waiters.head?.map (·.port))] t) ∧ AuthorityLoss h .released u t) ∧
      (¬ u.isHolder p → exec (.releaseAuthority p) s = .next (answered p c d o .notAuthority [] u))) ∧
    ∀ h, u.authority.holder = some h → distance u.time.elapsed h.expiry = 0 →
      ∃ t, exec .leaseExpiry s = .next t ∧ AuthorityLoss h .expired u t

/-! ### The Message Store (Section 3) -/

/-- A message or entry handle stands at the start of the parameter block and names record `i`. -/
abbrev Sys2Proof.Claims.Names (c : Command) (i : RecordNo) : Prop := (byteField c.params 0).toNat = i.val

/-- OPEN_DRAFT (R44): DRAFT_LIMIT with two drafts, then NO_RECORD with no FREE record; otherwise the head
of the free-record queue becomes a DRAFT of the port with the given tag, its generation advanced by one,
from 255 to 0, and the answer is its handle. Nothing else changes. -/
def Obligations.OpenDraftTakesRecord : Prop :=
  ∀ (p : Port) (c : Command) (d o : Bool) (s : State), Executes Row.openDraft p c d o s →
    let u := s.settleTick
    (2 ≤ u.store.draftCount p →
      exec (.openDraft p) s = .next (answered p c d o .draftLimit [] u)) ∧
    (u.store.draftCount p < 2 →
      (u.store.freeRecords = [] → exec (.openDraft p) s = .next (answered p c d o .noRecord [] u)) ∧
      ∀ (i : RecordNo) (rest : List RecordNo), u.store.freeRecords = i :: rest →
        let gen := u.store.records[i].gen + 1
        exec (.openDraft p) s = .next (answered p c d o .ok [BitVec.ofNat 8 i.val, gen]
          { u with store := { u.store with
            records := u.store.records.set i
              ⟨gen, .draft ⟨p, BitVec.ofNat 16 (field c.params 0 2), 0, []⟩⟩
            freeRecords := rest } }))

/-- APPEND refused at the first failing check of Table 3-3 (R45), with no byte written: the byte count
against 1..32, then against the data bytes, then the handle, the owner, the state, the length, and for
an append that needs a block the quota and the free list. `m` is what the handle names. -/
def Obligations.AppendRefusedInOrder : Prop :=
  ∀ (p : Port) (c : Command) (d o : Bool) (s : State), Executes Row.append p c d o s →
    s.time.periods < 100 →
    let n := (byteField c.params 2).toNat
    let refused : Result → Prop := fun r => exec (.append p) s = .next (answered p c d o r [] s)
    (n < 1 ∨ 32 < n → refused .range) ∧
    (1 ≤ n → n ≤ 32 → n ≠ c.params.length - 3 → refused .badParam) ∧
    (1 ≤ n → n ≤ 32 → n = c.params.length - 3 →
      (128 ≤ (byteField c.params 0).toNat → refused .range) ∧
      ∀ i : RecordNo, Names c i →
        (s.store.records[i].content = .free ∨ s.store.records[i].gen ≠ byteField c.params 1 →
          refused .staleHandle) ∧
        (s.store.records[i].gen = byteField c.params 1 → ∀ m : Message,
          ((s.store.records[i].content = .draft m ∨ ∃ k, s.store.records[i].content = .sealed m k) →
            m.sender ≠ p → refused .notOwner) ∧
          (m.sender = p → ∀ k, s.store.records[i].content = .sealed m k → refused .notDraft) ∧
          (m.sender = p → s.store.records[i].content = .draft m →
            let need := (m.length + n + 31) / 32 - (m.length + 31) / 32
            (1024 < m.length + n → refused .tooLong) ∧
            (m.length + n ≤ 1024 → need = 1 → s.store.quota.get p < s.store.charge.get p + 1 →
              refused .overQuota) ∧
            (m.length + n ≤ 1024 → need = 1 → s.store.charge.get p + 1 ≤ s.store.quota.get p →
              s.store.freeBlocks = [] → refused .noBlocks))))

/-- APPEND carried out (R46) in a sound store: the blocks it needs, none or one, come from the head of the
free list to the end of the chain and into the sender's charge; the data bytes stand at payload
positions L to L + n − 1, and every byte of the pool outside them reads as before; the length becomes
L + n. The tag and every other record are unchanged. -/
def Obligations.AppendWritesPayload : Prop :=
  ∀ (p : Port) (c : Command) (d o : Bool) (s : State) (i : RecordNo) (m : Message),
    let n := (byteField c.params 2).toNat
    let need := (m.length + n + 31) / 32 - (m.length + 31) / 32
    Executes Row.append p c d o s → s.time.periods < 100 →
    StoreSound s.store → Memory.wf s.store.pool = true →
    1 ≤ n → n ≤ 32 → n = c.params.length - 3 → Names c i →
    s.store.records[i].gen = byteField c.params 1 → s.store.records[i].content = .draft m →
    m.sender = p → m.length + n ≤ 1024 →
    (need ≠ 0 → s.store.charge.get p + need ≤ s.store.quota.get p ∧ need ≤ s.store.freeBlocks.length) →
    ∃ pool : List Host.Cell,
      let chain := m.chain ++ s.store.freeBlocks.take need
      let charge := s.store.charge.get p + need
      exec (.append p) s = .next (answered p c d o .ok (be 2 (m.length + n) ++ be 2 charge)
        { s with store := { s.store with
          pool := pool
          freeBlocks := s.store.freeBlocks.drop need
          records := s.store.records.set i
            { s.store.records[i] with content := .draft { m with length := m.length + n, chain := chain } }
          charge := s.store.charge.put p charge } }) ∧
      (∀ k < n, readByte pool (payloadAddress chain (m.length + k)) = byteField c.params (3 + k)) ∧
      ∀ a, (∀ k < n, a ≠ payloadAddress chain (m.length + k)) → readByte pool a = readByte s.store.pool a

/-- ABANDON_DRAFT (R47): RANGE, STALE_HANDLE, NOT_OWNER and NOT_DRAFT as Table 3-3 gives them; otherwise
the draft's blocks go to the free list tail in chain order and out of the sender's charge, and the record
becomes FREE, keeping its generation, and joins the free-record queue's tail. -/
def Obligations.AbandonDraftFreesRecord : Prop :=
  ∀ (p : Port) (c : Command) (d o : Bool) (s : State), Executes Row.abandonDraft p c d o s →
    s.time.periods < 100 →
    let refused : Result → Prop := fun r => exec (.abandonDraft p) s = .next (answered p c d o r [] s)
    (128 ≤ (byteField c.params 0).toNat → refused .range) ∧
    ∀ i : RecordNo, Names c i →
      (s.store.records[i].content = .free ∨ s.store.records[i].gen ≠ byteField c.params 1 →
        refused .staleHandle) ∧
      (s.store.records[i].gen = byteField c.params 1 → ∀ m : Message,
        ((s.store.records[i].content = .draft m ∨ ∃ k, s.store.records[i].content = .sealed m k) →
          m.sender ≠ p → refused .notOwner) ∧
        (m.sender = p → ∀ k, s.store.records[i].content = .sealed m k → refused .notDraft) ∧
        (m.sender = p → s.store.records[i].content = .draft m →
          exec (.abandonDraft p) s = .next (answered p c d o .ok [BitVec.ofNat 8 m.chain.length]
            { s with store := { s.store with
              freeBlocks := s.store.freeBlocks ++ m.chain
              records := s.store.records.set i ⟨byteField c.params 1, .free⟩
              freeRecords := s.store.freeRecords ++ [i]
              charge := s.store.charge.put p (s.store.charge.get p - m.chain.length) } })))

/-- SET_QUOTA (R58, R59): BAD_PARAM for no port, RANGE above 512, QUOTA_BELOW_CHARGE below the named
port's charge, in this order; otherwise the quota takes the value, QUOTA_CHANGED goes to the named port,
and the answer gives the quota replaced and the charge. -/
def Obligations.SetQuotaChangesQuota : Prop :=
  ∀ (p : Port) (c : Command) (d o : Bool) (s : State), Executes Row.setQuota p c d o s →
    let u := s.settleTick
    let value := field c.params 1 2
    let refused : Result → Prop := fun r => exec (.setQuota p) s = .next (answered p c d o r [] u)
    (3 < (byteField c.params 0).toNat → refused .badParam) ∧
    ∀ q : Port, byteField c.params 0 = q.code →
      (512 < value → refused .range) ∧
      (value ≤ 512 → value < u.store.charge.get q → refused .quotaBelowCharge) ∧
      (value ≤ 512 → u.store.charge.get q ≤ value →
        exec (.setQuota p) s = .next (answered p c d o .ok
          (be 2 (u.store.quota.get q) ++ be 2 (u.store.charge.get q))
          (report q u.stamp (.quotaChanged (u.store.quota.get q) value (u.store.charge.get q) p)
            { u with store := { u.store with quota := u.store.quota.put q value } })))

/-! ### The Calendar (Section 4) -/

/-- The flags byte of the SCHEDULE block has bit `k` set. -/
abbrev Sys2Proof.Claims.FlagSet (c : Command) (k : Nat) : Prop := (byteField c.params 9).toNat / 2 ^ k % 2 = 1

/-- Steps 1 to 5 of Table 4-2 as its rows give them: each condition with the result it refuses with.
`timeBad` is the condition of step 2, which differs between the two commands. -/
def Sys2Proof.Claims.fieldSteps (c : Command) (timeBad : Prop) : List (Prop × Result) :=
  let kind := byteField c.params 8
  let periodSec := field c.params 10 2
  let periodNs := field c.params 12 4
  let remaining := field c.params 16 2
  let targets := (byteField c.params 18).toNat
  let line := (byteField c.params 21).toNat
  let action := (byteField c.params 22).toNat
  let width := field c.params 23 4
  [(kind ≠ 1 ∧ kind ≠ 2 ∨ FlagSet c 3 ∨ FlagSet c 6 ∨ FlagSet c 7, .badParam),
    (timeBad, .range),
    (FlagSet c 4 ∧ (999999999 < periodNs ∨ 65535000000000 < periodSec * 1000000000 + periodNs), .range),
    (FlagSet c 4 ∧ periodSec * 1000000000 + periodNs < 10000, .badParam),
    (FlagSet c 5 ∧ ¬ FlagSet c 4, .badParam),
    (FlagSet c 5 ∧ remaining = 0, .range),
    (kind = 1 ∧ (targets = 0 ∨ 15 < targets), .badParam),
    (kind = 2 ∧ (line < 4 ∨ 7 < line ∨ action < 1 ∨ 4 < action), .badParam),
    (kind = 2 ∧ action = 4 ∧ (width < 1 ∨ 1000000 < width), .range)]

/-- Step 8 of Table 4-2: for DELIVER the record number, the staleness and the sender of the message
handle (R49), for LINE the claim of the output line, and step 10, an empty free-record queue. -/
def Sys2Proof.Claims.objectSteps (p : Port) (c : Command) (u : State) : List (Prop × Result) :=
  let deliver := byteField c.params 8 = 1
  let named : Message → Prop := fun m => ∃ i : RecordNo, (byteField c.params 19).toNat = i.val ∧
    u.store.records[i].gen = byteField c.params 20 ∧
    (u.store.records[i].content = .draft m ∨ ∃ k, u.store.records[i].content = .sealed m k)
  [(deliver ∧ 128 ≤ (byteField c.params 19).toNat, .range),
    (deliver ∧ ¬ ∃ m, named m, .staleHandle),
    (deliver ∧ ¬ ∃ m, named m ∧ m.sender = p, .notOwner),
    (¬ deliver ∧ ∀ out : OutLine, byteField c.params 21 = out.code → u.events.outOwner.get out ≠ some p,
      .lineNotClaimed)]

/-- The table refuses with `r`: one of its conditions holds, and none before it. -/
abbrev Sys2Proof.Claims.RefusesWith (steps : List (Prop × Result)) (r : Result) : Prop :=
  ∃ (front back : List (Prop × Result)) (cond : Prop), steps = front ++ (cond, r) :: back ∧ cond ∧
    ∀ x ∈ front, ¬ x.1

/-- No condition of the table holds. -/
abbrev Sys2Proof.Claims.Passes (steps : List (Prop × Result)) : Prop := ∀ x ∈ steps, ¬ x.1

/-- Table 4-2 whole for SCHEDULE_AT. -/
def Sys2Proof.Claims.scheduleAtSteps (p : Port) (c : Command) (u : State) : List (Prop × Result) :=
  fieldSteps c (999999999 < field c.params 4 4) ++ [(u.time.timeState = .free, .timeNotSet)] ++
    objectSteps p c u ++
    [(FlagSet c 2 ∧ (pointField c.params 0).atOrBefore u.time.now, .past),
      (u.calendar.freeRecords = [], .calendarFull)]

/-- Table 4-2 whole for SCHEDULE_AFTER, with step 7 as the release time past the end of the scale. -/
def Sys2Proof.Claims.scheduleAfterSteps (p : Port) (c : Command) (u : State) : List (Prop × Result) :=
  fieldSteps c (65535 < field c.params 0 4 ∨ 999999999 < field c.params 4 4) ++
    [(4294967296000000000 ≤ u.time.now.toNs + (pointField c.params 0).toNs, .range)] ++
    objectSteps p c u ++ [(u.calendar.freeRecords = [], .calendarFull)]

/-- The action that a SCHEDULE block describes (Table 10-5). -/
abbrev Sys2Proof.Claims.ActionIs (c : Command) : EntryAction → Prop
  | .deliver ts h => byteField c.params 8 = 1 ∧ (byteField c.params 19).toNat = h.record.val ∧
      byteField c.params 20 = h.gen ∧ ∀ q : Port, ts.get q = (byteField c.params 18).getLsbD q.code.toNat
  | .line out a => byteField c.params 8 = 2 ∧ byteField c.params 21 = out.code ∧
      byteField c.params 22 = a.code ∧ ∀ w, a = .pulse w → w = field c.params 23 4

/-- The entry that a SCHEDULE block describes, armed for `r` with admission sequence `seq` (R71). -/
def Sys2Proof.Claims.scheduled (p : Port) (c : Command) (a : EntryAction) (r : Point) (seq : BitVec 32) : Entry :=
  { owner := p, action := a, release := r, sequence := seq
    period := if FlagSet c 4 then some ⟨field c.params 10 2, field c.params 12 4⟩ else none
    remaining := if FlagSet c 5 then some (field c.params 16 2) else none
    occurrences := 0, missed := 0
    notify := decide (FlagSet c 0), keep := decide (FlagSet c 1), strict := decide (FlagSet c 2) }

/-- The armed list with `i` placed behind every entry of release time `r` or before (R67, R68). -/
def Sys2Proof.Claims.joined (u : State) (i : RecordNo) (r : Point) (armed : List RecordNo) : List RecordNo :=
  armed.takeWhile (fun j => decide ((u.calendar.releaseOf j).atOrBefore r)) ++ i ::
    armed.dropWhile (fun j => decide ((u.calendar.releaseOf j).atOrBefore r))

/-- A reference taken on the message in record `j` (R50): a DRAFT is SEALED with count 1, and the count
of a SEALED message rises by one. -/
abbrev Sys2Proof.Claims.TakesReference (j : RecordNo) (st st' : Store) : Prop :=
  ∃ content : MessageState, st' = { st with records := st.records.set j ⟨st.records[j].gen, content⟩ } ∧
    (∀ m, st.records[j].content = .draft m → content = .sealed m 1) ∧
    ∀ m n, st.records[j].content = .sealed m n → content = .sealed m (n + 1)

/-- A reference dropped on the message in record `j` (R51, R52): the count falls by one, and the drop of
the last frees the message, its blocks to the free list tail and out of its sender's charge. -/
abbrev Sys2Proof.Claims.DropsReference (j : RecordNo) (st st' : Store) : Prop :=
  (∀ m n, st.records[j].content = .sealed m n → 2 ≤ n →
    st' = { st with records := st.records.set j ⟨st.records[j].gen, .sealed m (n - 1)⟩ }) ∧
  ∀ m, st.records[j].content = .sealed m 1 →
    st' = { st with
      records := st.records.set j ⟨st.records[j].gen, .free⟩
      freeBlocks := st.freeBlocks ++ m.chain
      freeRecords := st.freeRecords ++ [j]
      charge := st.charge.put m.sender (st.charge.get m.sender - m.chain.length) }

/-- An admission with release time `r` (R71, R72): the record at the head of the free-record queue is
ARMED with the next generation and admission sequence at its place in the armed list, a DELIVER entry
takes its reference, and an entry due while RUNNING is released within the event. -/
abbrev Sys2Proof.Claims.Admitted (p : Port) (c : Command) (r : Point) (late : Bool) (u : State)
    (answer : List Byte) (t : State) : Prop :=
  ∃ (i : RecordNo) (rest : List RecordNo) (a : EntryAction) (w : State),
    u.calendar.freeRecords = i :: rest ∧ ActionIs c a ∧
    let gen := u.calendar.records[i].gen + 1
    let seq := u.calendar.nextSequence
    answer = [BitVec.ofNat 8 i.val, gen] ++ be 4 r.sec ++ be 4 r.ns ++ be 4 seq.toNat ∧
    w = { u with
      store := w.store
      calendar := { u.calendar with
        records := u.calendar.records.set i ⟨gen, .armed (scheduled p c a r seq)⟩
        armed := joined u i r u.calendar.armed
        freeRecords := rest
        nextSequence := seq + 1 } } ∧
    (match a with
      | .deliver _ h => TakesReference h.record u.store w.store
      | .line _ _ => w.store = u.store) ∧
    t = if u.running ∧ r.atOrBefore u.time.now then releaseEntry late w i else w

/-- SCHEDULE_AT and SCHEDULE_AFTER (R70 to R72): refused at the first failing step of Table 4-2, with no
effect; admitted when every step passes, SCHEDULE_AFTER at Common Time plus the delay. An occurrence
within the admission is late for SCHEDULE_AT and on time for SCHEDULE_AFTER (R77). -/
def Obligations.ScheduleAdmitsOrRefuses : Prop :=
  ∀ (p : Port) (c : Command) (d o : Bool) (s : State),
    let u := s.settleTick
    let at' := pointField c.params 0
    (Executes Row.scheduleAt p c d o s →
      (∀ r, RefusesWith (scheduleAtSteps p c u) r →
        exec (.scheduleAt p) s = .next (answered p c d o r [] u)) ∧
      (Passes (scheduleAtSteps p c u) → ArmedListComplete u.calendar → ∃ answer t,
        exec (.scheduleAt p) s = .next (answered p c d o .ok answer t) ∧
        Admitted p c at' true u answer t)) ∧
    (Executes Row.scheduleAfter p c d o s →
      (∀ r, RefusesWith (scheduleAfterSteps p c u) r →
        exec (.scheduleAfter p) s = .next (answered p c d o r [] u)) ∧
      (Passes (scheduleAfterSteps p c u) → ArmedListComplete u.calendar →
        ∀ r : Point, r.ns ≤ 999999999 → r.toNs = u.time.now.toNs + at'.toNs → ∃ answer t,
        exec (.scheduleAfter p) s = .next (answered p c d o .ok answer t) ∧
        Admitted p c r false u answer t))

/-- The record `i` holds `e`, ARMED, or FINISHED with cause `why`. -/
abbrev Sys2Proof.Claims.Holds (u : State) (i : RecordNo) (e : Entry) (why : Option FinishCause) : Prop :=
  u.calendar.records[i].content = match why with
    | none => .armed e
    | some x => .finished e x

/-- RETIME (R84), its checks in their order, and the move: the entry takes the new release time and the
next admission sequence at its new place, and is released late within the event when that time is at or
before Common Time while RUNNING. -/
def Obligations.RetimeMovesEntry : Prop :=
  ∀ (p : Port) (c : Command) (d o : Bool) (s : State), Executes Row.retime p c d o s →
    s.time.periods < 100 →
    let r := pointField c.params 2
    let answer : Result → List Byte → State → Prop := fun x bytes t =>
      exec (.retime p) s = .next (answered p c d o x bytes t)
    (128 ≤ (byteField c.params 0).toNat → answer .range [] s) ∧
    ∀ i : RecordNo, Names c i →
      (999999999 < r.ns → answer .range [] s) ∧
      (r.ns ≤ 999999999 → s.time.timeState = .free → answer .timeNotSet [] s) ∧
      (r.ns ≤ 999999999 → s.time.timeState = .set →
        (s.calendar.records[i].content = .free ∨ s.calendar.records[i].gen ≠ byteField c.params 1 →
          answer .staleHandle [] s) ∧
        (s.calendar.records[i].gen = byteField c.params 1 → ∀ (e : Entry) (why : Option FinishCause),
          Holds s i e why →
          (e.owner ≠ p → answer .notOwner [] s) ∧
          (e.owner = p →
            (∀ x, why = some x →
              answer .tooLate ([x.code] ++ be 2 e.occurrences ++ be 2 e.missed) s) ∧
            (why = none → e.strict = true → r.atOrBefore s.time.now → answer .past [] s) ∧
            (why = none → (e.strict = true → ¬ r.atOrBefore s.time.now) →
              let w := { s with calendar := { s.calendar with
                records := s.calendar.records.set i
                  ⟨byteField c.params 1, .armed { e with release := r, sequence := s.calendar.nextSequence }⟩
                armed := joined s i r (s.calendar.armed.erase i)
                nextSequence := s.calendar.nextSequence + 1 } }
              answer .ok (be 4 r.sec ++ be 4 r.ns ++ be 4 s.calendar.nextSequence.toNat)
                (if s.running ∧ r.atOrBefore s.time.now then releaseEntry true w i else w)))))

/-- CANCEL (R85), its checks in their order, and the finish: the entry leaves the armed list, is FINISHED
with cause CANCELLED, its record joins the free-record queue's tail, and a DELIVER entry drops its
reference. A FINISHED entry is answered TOO_LATE. No report is caused. -/
def Obligations.CancelFinishesEntry : Prop :=
  ∀ (p : Port) (c : Command) (d o : Bool) (s : State), Executes Row.cancel p c d o s →
    s.time.periods < 100 →
    let answer : Result → List Byte → State → Prop := fun x bytes t =>
      exec (.cancel p) s = .next (answered p c d o x bytes t)
    (128 ≤ (byteField c.params 0).toNat → answer .range [] s) ∧
    ∀ i : RecordNo, Names c i →
      (s.calendar.records[i].content = .free ∨ s.calendar.records[i].gen ≠ byteField c.params 1 →
        answer .staleHandle [] s) ∧
      (s.calendar.records[i].gen = byteField c.params 1 → ∀ (e : Entry) (why : Option FinishCause),
        Holds s i e why →
        (e.owner ≠ p → answer .notOwner [] s) ∧
        (e.owner = p →
          (∀ x, why = some x → answer .tooLate ([x.code] ++ be 2 e.occurrences ++ be 2 e.missed) s) ∧
          (why = none → ∃ store : Store,
            answer .ok (be 2 e.occurrences ++ be 2 e.missed)
              { s with
                store := store
                calendar := { s.calendar with
                  records := s.calendar.records.set i ⟨byteField c.params 1, .finished e .cancelled⟩
                  armed := s.calendar.armed.erase i
                  freeRecords := s.calendar.freeRecords ++ [i] } } ∧
            match e.action with
              | .deliver _ h => DropsReference h.record s.store store
              | .line _ _ => store = s.store)))

/-- HOLD_RELEASES and RESUME_RELEASES (R81, R82): the hold changes nothing but the release state; the
resume while RUNNING changes nothing; while HELD it releases every due entry late, in list order. Each
answer gives the previous state, that of the resume also the number of entries released. -/
def Obligations.HoldAndResumeReleases : Prop :=
  ∀ (p : Port) (c : Command) (d o : Bool) (s : State),
    let u := s.settleTick
    (Executes Row.holdReleases p c d o s →
      exec (.holdReleases p) s = .next (answered p c d o .ok
        [if u.calendar.releaseState = .held then 1 else 0]
        { u with calendar := { u.calendar with releaseState := .held } })) ∧
    (Executes Row.resumeReleases p c d o s →
      (u.calendar.releaseState = .running →
        exec (.resumeReleases p) s = .next (answered p c d o .ok [0, 0] u)) ∧
      (u.calendar.releaseState = .held →
        let w := { u with calendar := { u.calendar with releaseState := .running } }
        let due := u.calendar.armed.filter fun i =>
          decide ((u.calendar.releaseOf i).atOrBefore u.time.now)
        exec (.resumeReleases p) s = .next (answered p c d o .ok [1, BitVec.ofNat 8 due.length]
          (due.foldl (releaseEntry true) w))))

/-- The arithmetic of catch-up (R75): with `n` the number of due times after the release time at or
before the present, the skipped count, the remaining count and the entry's fate. -/
def Obligations.CatchUpCountsDueTimes : Prop :=
  ∀ (e : Entry) (t : Point),
    (e.period = none → catchUp e t = ⟨0, e.remaining, .finish .completed⟩) ∧
    ∀ (p : Point) (n : Nat), e.period = some p → 0 < p.toNs →
      e.release.toNs + n * p.toNs ≤ t.toNs → t.toNs < e.release.toNs + (n + 1) * p.toNs →
      let next := e.release.toNs + (n + 1) * p.toNs
      let onward : Fate :=
        if 4294967296000000000 ≤ next then .finish .outOfRange
        else .rearm ⟨next / 1000000000, next % 1000000000⟩
      (e.remaining = none → catchUp e t = ⟨n, none, onward⟩) ∧
      ∀ c, e.remaining = some c → 1 ≤ c → catchUp e t =
        ⟨min n (c - 1), some (c - 1 - min n (c - 1)), if c ≤ n + 1 then .finish .completed else onward⟩

/-- One occurrence of the entry ARMED in record `i` (R74, R76, R78, R95, R96, R97, R140, R141). The counts
rise; a DELIVER occurrence appends one record, with one reference, to the inbox of each target that is
attached, OPEN and not full, and to no other; a LINE occurrence acts on its line only when the owner
owns it; the owner is sent DELIVERY_FAILED or LINE_REFUSED, then ENTRY_RELEASED with NOTIFY, then
ENTRY_FINISHED at a finish; the entry is re-armed or finishes. Nothing else changes. A skipped count
above 65,535 is carried as a free value (log entry 6), whatever it is. -/
def Obligations.OccurrenceCarriedOut : Prop :=
  ∀ (late : Bool) (s : State) (i : RecordNo) (e : Entry), s.calendar.records[i].content = .armed e →
    let t := releaseEntry late s i
    let k := catchUp e s.time.now
    let h : Handle := ⟨i, s.calendar.records[i].gen⟩
    let number := min 65535 (e.occurrences + 1)
    let e' := { e with
      occurrences := number, missed := min 65535 (e.missed + k.skipped), remaining := k.remaining }
    let skipped := if k.skipped ≤ 65535 then k.skipped else (Config.skippedBeyond k.skipped).toNat
    let tell : ReportBody → State → State := report e.owner s.stamp
    let released : ReleaseOutcome → State → State := fun outcome x =>
      if e.notify then tell (.entryReleased h number e.release skipped late outcome) x else x
    let finished : State → State := fun x =>
      match k.fate with
      | .rearm _ => x
      | .finish cause => tell (.entryFinished h cause number e'.missed) x
    KeptByReleases s t ∧
    (match k.fate with
      | .rearm next => t.calendar = { s.calendar with
          records := s.calendar.records.set i
            ⟨h.gen, .armed { e' with release := next, sequence := s.calendar.nextSequence }⟩
          armed := joined s i next (s.calendar.armed.erase i)
          nextSequence := s.calendar.nextSequence + 1 }
      | .finish cause => t.calendar = { s.calendar with
          records := s.calendar.records.set i ⟨h.gen, .finished e' cause⟩
          armed := s.calendar.armed.erase i
          freeRecords := s.calendar.freeRecords ++ [i] }) ∧
    (∀ (ts : PerPort Bool) (mh : Handle) (m : Message) (n : Nat), e.action = .deliver ts mh →
      s.store.records[mh.record].content = .sealed m n → 1 ≤ n →
      let fails : Port → Option FailReason := fun q =>
        if ¬ s.attached q then some .detached
        else if (s.inboxes.get q).setting = .closed then some .closed
        else if 32 ≤ (s.inboxes.get q).records.length then some .full
        else none
      let placed : PerPort Bool := ⟨ts.p0 && (fails .p0).isNone, ts.p1 && (fails .p1).isNone,
        ts.p2 && (fails .p2).isNone, ts.p3 && (fails .p3).isNone⟩
      let failed := (Port.all.filter fun q => ts.get q).filterMap fun q => (fails q).map fun x => (q, x)
      let count := n + (Port.all.filter fun q => placed.get q).length
      (∀ q, t.inboxes.get q =
        if placed.get q then { s.inboxes.get q with records := (s.inboxes.get q).records ++
          [⟨mh, m.sender, m.tag, m.length, h, number, skipped, e.release, s.stamp, late⟩] }
        else s.inboxes.get q) ∧
      (let store := { s.store with
          records := s.store.records.set mh.record ⟨s.store.records[mh.record].gen, .sealed m count⟩ }
       ((∃ next, k.fate = .rearm next) → t.store = store) ∧
        ((∃ cause, k.fate = .finish cause) → DropsReference mh.record store t.store)) ∧
      t.outputs = s.outputs ∧
      t.reports = (finished (released (.placed placed)
        (if failed = [] then s
          else tell (.deliveryFailed h number e.release late failed) s))).reports) ∧
    (∀ (out : OutLine) (a : LineAction), e.action = .line out a →
      t.store = s.store ∧ t.inboxes = s.inboxes ∧
      (s.events.outOwner.get out = some e.owner →
        t.outputs = (applyAction out a s).outputs ∧
        t.reports = (finished (released (.line true) s)).reports) ∧
      (s.events.outOwner.get out ≠ some e.owner →
        t.outputs = s.outputs ∧
        t.reports = (finished (released (.line false)
          (tell (.lineRefused h number out a e.release late (s.events.outOwner.get out)) s))).reports))

/-! ### Inboxes (Section 5) -/

/-- FETCH_HEAD and READ_PAYLOAD (R100, R101) change nothing. FETCH_HEAD answers every field of the head
record but the message handle, the number of records, and the first 16 payload bytes or fewer; EMPTY on
an empty inbox. READ_PAYLOAD checks the count, the offset, the inbox and the end of the payload in this
order and answers the bytes. `m` is the message that the head names. -/
def Obligations.FetchAndReadPayload : Prop :=
  ∀ (p : Port) (c : Command) (d o : Bool) (s : State),
    let u := s.settleTick
    let records := (u.inboxes.get p).records
    let payload : Message → Nat → Nat → List Byte := fun m offset count =>
      (List.range count).map fun k => readByte u.store.pool (payloadAddress m.chain (offset + k))
    (Executes Row.fetchHead p c d o s →
      (records = [] → exec (.fetchHead p) s = .next (answered p c d o .empty [] u)) ∧
      ∀ (x : Delivery) (rest : List Delivery) (m : Message), records = x :: rest →
        u.store.records[x.message.record].content.message? = some m →
        exec (.fetchHead p) s = .next (answered p c d o .ok
          ([x.source.code] ++ be 2 x.tag.toNat ++ be 2 x.length ++
            [BitVec.ofNat 8 x.entry.record.val, x.entry.gen] ++ be 2 x.occurrence ++ be 2 x.missedBefore ++
            be 4 x.release.sec ++ be 4 x.release.ns ++ [x.delivered.epoch] ++ be 4 x.delivered.point.sec ++
            be 4 x.delivered.point.ns ++ [if x.late then 1 else 0, BitVec.ofNat 8 (rest.length + 1)] ++
            payload m 0 (min 16 x.length)) u)) ∧
    (Executes Row.readPayload p c d o s →
      let offset := field c.params 0 2
      let count := (byteField c.params 2).toNat
      (count < 1 ∨ 32 < count ∨ 1023 < offset →
        exec (.readPayload p) s = .next (answered p c d o .range [] u)) ∧
      (1 ≤ count → count ≤ 32 → offset ≤ 1023 →
        (records = [] → exec (.readPayload p) s = .next (answered p c d o .empty [] u)) ∧
        ∀ (x : Delivery) (rest : List Delivery) (m : Message), records = x :: rest →
          u.store.records[x.message.record].content.message? = some m →
          (x.length < offset + count →
            exec (.readPayload p) s = .next (answered p c d o .range [] u)) ∧
          (offset + count ≤ x.length →
            exec (.readPayload p) s = .next (answered p c d o .ok (payload m offset count) u))))

/-- DISCARD_HEAD removes the head record and drops its reference (R102); FLUSH_INBOX removes every record,
oldest first, dropping each reference in turn, and keeps the settings (R103); SET_INBOX sets both
settings and answers the previous ones, BAD_PARAM for a field holding neither of its values (R104). -/
def Obligations.InboxCommands : Prop :=
  ∀ (p : Port) (c : Command) (d o : Bool) (s : State), s.time.periods < 100 →
    let x := s.inboxes.get p
    (Executes Row.discardHead p c d o s →
      (x.records = [] → exec (.discardHead p) s = .next (answered p c d o .empty [] s)) ∧
      ∀ (head : Delivery) (rest : List Delivery), x.records = head :: rest → ∃ store : Store,
        exec (.discardHead p) s = .next (answered p c d o .ok [BitVec.ofNat 8 rest.length]
          { s with store := store, inboxes := s.inboxes.put p { x with records := rest } }) ∧
        DropsReference head.message.record s.store store) ∧
    (Executes Row.flushInbox p c d o s →
      exec (.flushInbox p) s = .next (answered p c d o .ok [BitVec.ofNat 8 x.records.length]
        { s with
          store := x.records.foldl (fun store y => store.dropReference y.message.record) s.store
          inboxes := s.inboxes.put p { x with records := [] } })) ∧
    (Executes Row.setInbox p c d o s →
      (1 < (byteField c.params 0).toNat ∨ 1 < (byteField c.params 1).toNat →
        exec (.setInbox p) s = .next (answered p c d o .badParam [] s)) ∧
      ∀ (setting : InboxSetting) (attention : Bool), byteField c.params 0 = setting.code →
        byteField c.params 1 = markByte attention →
        exec (.setInbox p) s = .next (answered p c d o .ok
          [x.setting.code, markByte x.attention, BitVec.ofNat 8 x.records.length]
          { s with inboxes := s.inboxes.put p ⟨x.records, setting, attention⟩ })) ∧
    ∀ (j : RecordNo) (store : Store), DropsReference j store (store.dropReference j)

/-! ### Lines (Sections 6 and 7) -/

/-- CLAIM_LINE (R111, R132), its checks in their order: BAD_PARAM for no line and for a parameter without
meaning; LINE_HELD with the owner; ALREADY_CLAIMED, nothing changed; otherwise the port owns the line, an
event line with the given edge select and compensation, an empty capture queue and no drops, and an
output line at its initial level with no pulse. -/
def Obligations.ClaimLineGrants : Prop :=
  ∀ (p : Port) (c : Command) (d o : Bool) (s : State), Executes Row.claimLine p c d o s →
    let u := s.settleTick
    let x := byteField c.params 1
    let answer : Result → List Byte → State → Prop := fun r bytes t =>
      exec (.claimLine p) s = .next (answered p c d o r bytes t)
    (7 < (byteField c.params 0).toNat → answer .badParam [] u) ∧
    (∀ l : EvLine, byteField c.params 0 = l.code →
      (x.toNat < 1 ∨ 3 < x.toNat → answer .badParam [] u) ∧
      ∀ select : EdgeSelect, x = select.code →
        (∀ q, (u.events.lines.get l).owner = some q →
          (q ≠ p → answer .lineHeld [q.code] u) ∧ (q = p → answer .alreadyClaimed [] u)) ∧
        ((u.events.lines.get l).owner = none →
          answer .ok ([l.code, x] ++ be 2 (field c.params 2 2))
            (u.putLine l ⟨some p, select, field c.params 2 2, (u.events.lines.get l).level, [], 0⟩))) ∧
    ∀ out : OutLine, byteField c.params 0 = out.code →
      (1 < x.toNat → answer .badParam [] u) ∧
      ∀ level : Level, x = level.code →
        (∀ q, u.events.outOwner.get out = some q →
          (q ≠ p → answer .lineHeld [q.code] u) ∧ (q = p → answer .alreadyClaimed [] u)) ∧
        (u.events.outOwner.get out = none →
          answer .ok [out.code, x, 0, 0] ((u.putOutOwner out (some p)).putOut out ⟨level, none⟩))

/-- RELEASE_LINE (R112, R127, R133): BAD_PARAM for no line, LINE_NOT_CLAIMED for a line the port does not
own; otherwise an align armed on the line is cancelled with ALIGN_RESULT, the line returns to its
unclaimed settings, an output line to LOW with no pulse, and the answer gives the capture records
discarded. -/
def Obligations.ReleaseLineReturnsLine : Prop :=
  ∀ (p : Port) (c : Command) (d o : Bool) (s : State), Executes Row.releaseLine p c d o s →
    let u := s.settleTick
    let answer : Result → List Byte → State → Prop := fun r bytes t =>
      exec (.releaseLine p) s = .next (answered p c d o r bytes t)
    (7 < (byteField c.params 0).toNat → answer .badParam [] u) ∧
    (∀ l : EvLine, byteField c.params 0 = l.code →
      ((u.events.lines.get l).owner ≠ some p → answer .lineNotClaimed [] u) ∧
      ((u.events.lines.get l).owner = some p → ∃ v : State,
        answer .ok [BitVec.ofNat 8 (u.events.lines.get l).captures.length]
          (v.putLine l ⟨none, .rising, 0, (u.events.lines.get l).level, [], 0⟩) ∧
        ((∀ a, u.events.arming = some a → a.line ≠ l) → v = u) ∧
        ∀ a, u.events.arming = some a → a.line = l → v = report a.port u.stamp
          (.alignResult a.mode a.line a.target (.cancelled .lineReleased)) (u.putArming none))) ∧
    ∀ out : OutLine, byteField c.params 0 = out.code →
      (u.events.outOwner.get out ≠ some p → answer .lineNotClaimed [] u) ∧
      (u.events.outOwner.get out = some p →
        answer .ok [0] ((u.putOut out ⟨.low, none⟩).putOutOwner out none))

/-- TAKE_CAPTURE (R119), its checks in their order; the head record is removed and answered with the
records left and the drop count, which the removal does not change. -/
def Obligations.TakeCaptureRemovesHead : Prop :=
  ∀ (p : Port) (c : Command) (d o : Bool) (s : State), Executes Row.takeCapture p c d o s →
    s.time.periods < 100 →
    let answer : Result → List Byte → State → Prop := fun r bytes t =>
      exec (.takeCapture p) s = .next (answered p c d o r bytes t)
    (3 < (byteField c.params 0).toNat → answer .badParam [] s) ∧
    ∀ l : EvLine, byteField c.params 0 = l.code →
      let x := s.events.lines.get l
      (x.owner ≠ some p → answer .lineNotClaimed [] s) ∧
      (x.owner = some p → x.captures = [] → answer .empty [] s) ∧
      ∀ (head : Capture) (rest : List Capture), x.owner = some p → x.captures = head :: rest →
        answer .ok ([head.stamp.epoch] ++ be 4 head.stamp.point.sec ++ be 4 head.stamp.point.ns ++
          [head.polarity.code, BitVec.ofNat 8 head.lostBefore, BitVec.ofNat 8 rest.length,
            BitVec.ofNat 8 x.drops]) (s.putLine l { x with captures := rest })

/-- ARM_ALIGN and DISARM_ALIGN (R122, R126): the checks in their order, the arming made with the values
given, and the arming ended; both answers give its mode, line, target and guard. DISARM_ALIGN is answered
NOT_ARMED where none exists, and causes no report. -/
def Obligations.AlignArmedAndDisarmed : Prop :=
  ∀ (p : Port) (c : Command) (d o : Bool) (s : State),
    let u := s.settleTick
    let bytes : Arming → List Byte := fun a =>
      [a.mode.code, a.line.code] ++ be 4 a.target.sec ++ be 4 a.target.ns ++ be 4 a.guard
    (Executes Row.armAlign p c d o s →
      let mode := byteField c.params 0
      let target := pointField c.params 2
      let guard := field c.params 10 4
      let answer : Result → List Byte → State → Prop := fun r bytes t =>
        exec (.armAlign p) s = .next (answered p c d o r bytes t)
      (mode.toNat < 1 ∨ 2 < mode.toNat ∨ 3 < (byteField c.params 1).toNat → answer .badParam [] u) ∧
      ∀ (m : AlignMode) (l : EvLine), mode = m.code → byteField c.params 1 = l.code →
        (999999999 < target.ns ∨ 999999999 < guard → answer .range [] u) ∧
        (target.ns ≤ 999999999 → guard ≤ 999999999 →
          ((u.events.lines.get l).owner ≠ some p → answer .lineNotClaimed [] u) ∧
          ((u.events.lines.get l).owner = some p →
            (u.events.arming ≠ none → answer .alignBusy [] u) ∧
            (u.events.arming = none → answer .ok (bytes ⟨m, l, target, guard, p⟩)
              (u.putArming (some ⟨m, l, target, guard, p⟩)))))) ∧
    (Executes Row.disarmAlign p c d o s →
      (u.events.arming = none →
        exec (.disarmAlign p) s = .next (answered p c d o .notArmed [] u)) ∧
      ∀ a, u.events.arming = some a →
        exec (.disarmAlign p) s = .next (answered p c d o .ok (bytes a) (u.putArming none)))

/-- The recognized edge of line `l` to `level`, with its selected edge stored or dropped (R115 to R118):
the state after it and before any arming acts. -/
abbrev Sys2Proof.Claims.EdgeStored (l : EvLine) (level : Level) (q : Port) (stamp : Stamp) (u v : State) : Prop :=
  let x := u.events.lines.get l
  let pol : Polarity := if level = .high then .rising else .falling
  (x.captures.length < 8 → v =
    (let w := u.putLine l { x with
        level := level, captures := x.captures ++ [⟨stamp, pol, x.drops⟩], drops := 0 }
      if x.captures = [] then report q stamp (.captureReady l ⟨stamp, pol, x.drops⟩) w else w)) ∧
  (8 ≤ x.captures.length → v = u.putLine l { x with level := level, drops := min 255 (x.drops + 1) })

/-- A recognized edge (R115 to R118) on a line with no arming: a change to the opposite level held for
30 ns. The recognized level follows the pin on every line; an edge on an unclaimed line, or one that the
edge select excludes, does nothing else; a selected edge is stamped with Common Time less the
compensation, not below 0 s 0 ns, and stored, or dropped from a full queue. A shorter pulse, a change to
the recognized level, and any change while nRESET is asserted do nothing (R130). -/
def Obligations.EdgeRecognizedAndCaptured : Prop :=
  ∀ (l : EvLine) (level : Level) (held : Nat) (s : State),
    let u := s.settleTick
    let x := u.events.lines.get l
    (s.resetAsserted = true ∨ held < 30 ∨ level = x.level → exec (.edgeRecognized l level held) s = .next s) ∧
    (s.resetAsserted = false → 30 ≤ held → level ≠ x.level →
      (x.owner = none ∨ x.select = (if level = .high then .falling else .rising) →
        exec (.edgeRecognized l level held) s = .next (u.putLine l { x with level := level })) ∧
      ∀ (q : Port) (stamp : Stamp), x.owner = some q →
        x.select ≠ (if level = .high then .falling else .rising) →
        stamp.epoch = u.time.epoch → stamp.point.ns ≤ 999999999 →
        stamp.point.toNs = u.time.now.toNs - x.compensation →
        (∀ a, u.events.arming = some a → a.line ≠ l) →
        ∃ v, exec (.edgeRecognized l level held) s = .next v ∧ EdgeStored l level q stamp u v)

/-- The edge of an armed line (R123, R124, R125, R20): stamped and stored as any other, then given to the
arming. The offset is the target minus the stamp, zero counted positive. A MEASURE arming stays and
reports OFFSET. A STEP arming ends: an offset beyond a guard that is not 0 is REJECTED with no change of
time; otherwise Common Time takes the target plus the compensation, held at the end of the scale, with
fraction 0 and time state SET, as a time change with cause ALIGN, and then STEPPED is reported. -/
def Obligations.AlignEdgeActs : Prop :=
  ∀ (l : EvLine) (level : Level) (held : Nat) (s : State) (a : Arming) (q : Port) (stamp : Stamp)
    (offset : Offset),
    let u := s.settleTick
    let x := u.events.lines.get l
    s.resetAsserted = false → 30 ≤ held → level ≠ x.level → x.owner = some q →
    x.select ≠ (if level = .high then .falling else .rising) →
    u.events.arming = some a → a.line = l → a.target.ns ≤ 999999999 →
    stamp.epoch = u.time.epoch → stamp.point.ns ≤ 999999999 →
    stamp.point.toNs = u.time.now.toNs - x.compensation →
    offset.negative = decide (a.target.toNs < stamp.point.toNs) → offset.magnitude.ns ≤ 999999999 →
    offset.magnitude.toNs = (a.target.toNs - stamp.point.toNs) + (stamp.point.toNs - a.target.toNs) →
    let stored := decide (x.captures.length < 8)
    let pol : Polarity := if level = .high then .rising else .falling
    let value := min (a.target.toNs + x.compensation) 4294967295999999999
    ∃ v t, EdgeStored l level q stamp u v ∧ exec (.edgeRecognized l level held) s = .next t ∧
      (a.mode = .measure → t =
        report a.port stamp (.offset l a.target stamp pol offset stored) v) ∧
      (a.mode = .step → a.guard ≠ 0 → a.guard < offset.magnitude.toNs → a.guard ≤ 999999999 → t =
        report a.port u.stamp (.alignResult .step l a.target (.rejected stamp offset stored))
          (v.putArming none)) ∧
      (a.mode = .step → (a.guard = 0 ∨ offset.magnitude.toNs ≤ a.guard) → a.guard ≤ 999999999 →
        a.target.sec ≤ 4294967295 → ∃ w new, new.toNs = value ∧ new.ns ≤ 999999999 ∧
          TimeChange (v.putArming none) new 0 .set .align w ∧
          t = report a.port w.stamp (.alignResult .step l a.target (.stepped stamp offset stored)) w)

/-- What an action makes of a line's level and pulse (R134, R135) at local elapsed time `now`. -/
abbrev Sys2Proof.Claims.Acts (now : Nat) (a : LineAction) (x y : OutStage) : Prop :=
  (a = .turnOn → y = ⟨.high, none⟩) ∧ (a = .turnOff → y = ⟨.low, none⟩) ∧
  (a = .toggle → y = ⟨(match x.pulse with | none => x.level | some pl => pl.returnLevel).opposite, none⟩) ∧
  ∀ w, a = .pulse w →
    let stop := (now + w) % 281474976710656
    (x.pulse = none → y = ⟨x.level.opposite, some ⟨stop, x.level⟩⟩) ∧
    ∀ pl, x.pulse = some pl → y = ⟨x.level, some ⟨stop, pl.returnLevel⟩⟩

/-- DRIVE_LINE (R138, R139, R134, R135): the checks of its table in order; otherwise the action is applied
to the line, nothing else changes, and the answer gives the levels before and after and the pulse after.
The same action is what a LINE occurrence applies, in an event after which no tick is outstanding. -/
def Obligations.DriveLineActs : Prop :=
  (∀ (p : Port) (c : Command) (d o : Bool) (s : State), Executes Row.driveLine p c d o s →
    s.time.periods < 100 →
    let action := (byteField c.params 1).toNat
    let width := field c.params 2 4
    let answer : Result → List Byte → State → Prop := fun r bytes t =>
      exec (.driveLine p) s = .next (answered p c d o r bytes t)
    ((byteField c.params 0).toNat < 4 ∨ 7 < (byteField c.params 0).toNat ∨ action < 1 ∨ 4 < action →
      answer .badParam [] s) ∧
    ∀ (out : OutLine) (a : LineAction), byteField c.params 0 = out.code → byteField c.params 1 = a.code →
      (∀ w, a = .pulse w → w = width) →
      (action = 4 → width < 1 ∨ 1000000 < width → answer .range [] s) ∧
      ((action = 4 → 1 ≤ width ∧ width ≤ 1000000) →
        (s.events.outOwner.get out ≠ some p → answer .lineNotClaimed [] s) ∧
        (s.events.outOwner.get out = some p → ∃ y : OutStage,
          answer .ok ([(s.outputs.get out).level.code, y.level.code] ++
            (match y.pulse with
              | none => List.replicate 8 0
              | some pl => [1, pl.returnLevel.code] ++ be 6 pl.stop)) (s.putOut out y) ∧
          Acts s.time.elapsed a (s.outputs.get out) y))) ∧
  ∀ (out : OutLine) (a : LineAction) (s : State), s.time.periods < 100 → ∃ y,
    applyAction out a s = s.putOut out y ∧ Acts s.time.elapsed a (s.outputs.get out) y

/-! ### What every step keeps -/

/-- Reset leaves a sound state: every promise that the statements below carry from step to step holds at
`State.reset`. What the manual leaves open in that state is the model's choice (log entries 1, 2, 3, 7). -/
def Obligations.ResetIsSound : Prop :=
  NoEndPassed State.reset ∧ SessionsSound State.reset ∧ StoreSound State.reset.store ∧
    Memory.wf State.reset.store.pool = true ∧ CalendarSound State.reset ∧ ReferencesSound State.reset ∧
    QueuesBounded State.reset ∧ OutputsSound State.reset ∧ ResetsHold State.reset

/-- From every state in which the fields of the Time Base are in range and no end in local elapsed time
has been passed, so it is after a step: no lease, slew or pulse outlives its end (R1, R4 to R8). That an end
reached is taken before the next REFCLK period is the model's inference (log entry 16, DEDUCED), and so are
the count of at most 100 periods since the last tick (log entry 12) and the tick taken first by the next
event (log entry 5); this statement falls with them. -/
def Obligations.NoEndIsEverPassed : Prop := ∀ s t : State, NoEndPassed s → step s = .next t → NoEndPassed t

/-- From every state in which sessions are sound, they are after a step: holder, waiters and owners of
lines are attached, an arming has its holder and its claim, the Calendar is HELD only under a holder, and
a DETACHED port holds nothing (R23, R61, R81, R89, R108, R110, R121, R156). That no port is `departing`
between two events is of a field of the model's own (log entry 15). -/
def Obligations.SessionsStaySound : Prop :=
  ∀ s t : State, SessionsSound s → step s = .next t → SessionsSound t

/-- From every state in which the Message Store is sound and its pool in canonical form, so it is after a
step: every block on the free list or in one chain, chains of ⌈L / 32⌉ blocks, FREE records in their
queue, each charge the blocks held and within the quota (R39, R40, R42, R56). -/
def Obligations.StoreStaysSound : Prop :=
  ∀ s t : State, StoreSound s.store → Memory.wf s.store.pool = true → step s = .next t →
    StoreSound t.store ∧ Memory.wf t.store.pool = true

/-- From every state in which the Calendar is sound, it is after a step: the armed list holds the ARMED
entries in ascending release time, and while RUNNING none is at or before Common Time (R63 to R67). The range
of Common Time that this rests on takes in the count of at most 100 periods since the last tick (log entries
5 and 12). -/
def Obligations.CalendarStaysSound : Prop :=
  ∀ s t : State, CalendarSound s → step s = .next t → CalendarSound t

/-- From every state in which each reference count is exact, it is after a step: the count of a SEALED
message is the number of ARMED entries and inbox records naming it, and never 0 (R50). -/
def Obligations.ReferencesStayExact : Prop :=
  ∀ s t : State, ReferencesSound s → step s = .next t → ReferencesSound t

/-- From every state with its queues within their bounds and its output lines sound, so it is after a
step: at most 16 reports, the sixteenth an open REPORTS_LOST, numbered without a gap, 32 inbox records
and 8 capture records (R92, R117, R145, R149); an unclaimed output line LOW, and a pulse's level opposite
to its return level (R131). -/
def Obligations.QueuesAndOutputsStaySound : Prop :=
  ∀ s t : State, step s = .next t →
    (QueuesBounded s → QueuesBounded t) ∧ (OutputsSound s → OutputsSound t)

/-- From every state in which an asserted reset input holds what it must, it does after a step: the whole
part its reset values under nRESET, a port DETACHED with its slot EMPTY under nPRSTn (R168, R172). Among the
values under nRESET are three of the model's choice: recognized levels LOW (log entry 2), nothing sent on
SDOn, with the nPRSTn pins as they are driven (log entry 3), and a pool that nothing has written (log entry
7). -/
def Obligations.ResetInputsHold : Prop :=
  ∀ s t : State, ResetsHold s → step s = .next t → ResetsHold t

end
end

