-- ==== Sys2Proof/Laws/State.lean ====
section
/-! SUPPORT. The small lemmas of the state: one value of a port or line put and got, and each field of the
state after each named update. -/

namespace Sys2Proof

/-! ### One value of a port or line -/

@[simp] theorem PerPort.get_put {α : Type} (v : PerPort α) (p : Port) (x : α) : (v.put p x).get p = x := by
  cases p <;> rfl

@[simp] theorem PerPort.get_put_of_ne {α : Type} (v : PerPort α) {p q : Port} (x : α) (h : q ≠ p) :
    (v.put p x).get q = v.get q := by
  cases p <;> cases q <;> first | rfl | exact absurd rfl h

theorem PerPort.get_put_eq {α : Type} (v : PerPort α) (p q : Port) (x : α) :
    (v.put p x).get q = if q = p then x else v.get q := by
  cases p <;> cases q <;> rfl

@[simp] theorem PerPort.put_get {α : Type} (v : PerPort α) (p : Port) : v.put p (v.get p) = v := by
  cases p <;> rfl

@[simp] theorem PerPort.put_put {α : Type} (v : PerPort α) (p : Port) (x y : α) :
    (v.put p x).put p y = v.put p y := by
  cases p <;> rfl

theorem PerPort.ext_get {α : Type} {v w : PerPort α} (h : ∀ p, v.get p = w.get p) : v = w := by
  obtain ⟨a, b, c, d⟩ := v
  obtain ⟨a', b', c', d'⟩ := w
  have h0 : a = a' := h .p0
  have h1 : b = b' := h .p1
  have h2 : c = c' := h .p2
  have h3 : d = d' := h .p3
  subst h0 h1 h2 h3
  rfl

@[simp] theorem PerEv.get_put {α : Type} (v : PerEv α) (l : EvLine) (x : α) : (v.put l x).get l = x := by
  cases l <;> rfl

@[simp] theorem PerEv.get_put_of_ne {α : Type} (v : PerEv α) {l q : EvLine} (x : α) (h : q ≠ l) :
    (v.put l x).get q = v.get q := by
  cases l <;> cases q <;> first | rfl | exact absurd rfl h

theorem PerEv.get_put_eq {α : Type} (v : PerEv α) (l q : EvLine) (x : α) :
    (v.put l x).get q = if q = l then x else v.get q := by
  cases l <;> cases q <;> rfl

@[simp] theorem PerEv.put_get {α : Type} (v : PerEv α) (l : EvLine) : v.put l (v.get l) = v := by
  cases l <;> rfl

@[simp] theorem PerEv.put_put {α : Type} (v : PerEv α) (l : EvLine) (x y : α) :
    (v.put l x).put l y = v.put l y := by
  cases l <;> rfl

theorem PerEv.ext_get {α : Type} {v w : PerEv α} (h : ∀ l, v.get l = w.get l) : v = w := by
  obtain ⟨a, b, c, d⟩ := v
  obtain ⟨a', b', c', d'⟩ := w
  have h0 : a = a' := h .ev0
  have h1 : b = b' := h .ev1
  have h2 : c = c' := h .ev2
  have h3 : d = d' := h .ev3
  subst h0 h1 h2 h3
  rfl

@[simp] theorem PerOut.get_put {α : Type} (v : PerOut α) (o : OutLine) (x : α) : (v.put o x).get o = x := by
  cases o <;> rfl

@[simp] theorem PerOut.get_put_of_ne {α : Type} (v : PerOut α) {o q : OutLine} (x : α) (h : q ≠ o) :
    (v.put o x).get q = v.get q := by
  cases o <;> cases q <;> first | rfl | exact absurd rfl h

theorem PerOut.get_put_eq {α : Type} (v : PerOut α) (o q : OutLine) (x : α) :
    (v.put o x).get q = if q = o then x else v.get q := by
  cases o <;> cases q <;> rfl

@[simp] theorem PerOut.put_get {α : Type} (v : PerOut α) (o : OutLine) : v.put o (v.get o) = v := by
  cases o <;> rfl

@[simp] theorem PerOut.put_put {α : Type} (v : PerOut α) (o : OutLine) (x y : α) :
    (v.put o x).put o y = v.put o y := by
  cases o <;> rfl

theorem PerOut.ext_get {α : Type} {v w : PerOut α} (h : ∀ o, v.get o = w.get o) : v = w := by
  obtain ⟨a, b, c, d⟩ := v
  obtain ⟨a', b', c', d'⟩ := w
  have h0 : a = a' := h .out0
  have h1 : b = b' := h .out1
  have h2 : c = c' := h .out2
  have h3 : d = d' := h .out3
  subst h0 h1 h2 h3
  rfl

namespace Machine

/-! ### Each field after each update -/

@[simp] theorem State.putPort_time (s : State) (p : Port) (x : HostPort) :
    (s.putPort p x).time = s.time := rfl
@[simp] theorem State.putPort_authority (s : State) (p : Port) (x : HostPort) :
    (s.putPort p x).authority = s.authority := rfl
@[simp] theorem State.putPort_store (s : State) (p : Port) (x : HostPort) :
    (s.putPort p x).store = s.store := rfl
@[simp] theorem State.putPort_calendar (s : State) (p : Port) (x : HostPort) :
    (s.putPort p x).calendar = s.calendar := rfl
@[simp] theorem State.putPort_inboxes (s : State) (p : Port) (x : HostPort) :
    (s.putPort p x).inboxes = s.inboxes := rfl
@[simp] theorem State.putPort_events (s : State) (p : Port) (x : HostPort) :
    (s.putPort p x).events = s.events := rfl
@[simp] theorem State.putPort_outputs (s : State) (p : Port) (x : HostPort) :
    (s.putPort p x).outputs = s.outputs := rfl
@[simp] theorem State.putPort_reports (s : State) (p : Port) (x : HostPort) :
    (s.putPort p x).reports = s.reports := rfl
@[simp] theorem State.putPort_ports (s : State) (p : Port) (x : HostPort) :
    (s.putPort p x).ports = s.ports.put p x := rfl
@[simp] theorem State.putPort_resetAsserted (s : State) (p : Port) (x : HostPort) :
    (s.putPort p x).resetAsserted = s.resetAsserted := rfl
@[simp] theorem State.putPort_departing (s : State) (p : Port) (x : HostPort) :
    (s.putPort p x).departing = s.departing := rfl
@[simp] theorem State.putPort_draws (s : State) (p : Port) (x : HostPort) :
    (s.putPort p x).draws = s.draws := rfl
@[simp] theorem State.putPort_pending (s : State) (p : Port) (x : HostPort) :
    (s.putPort p x).pending = s.pending := rfl

@[simp] theorem State.putSlot_time (s : State) (p : Port) (x : Slot) :
    (s.putSlot p x).time = s.time := rfl
@[simp] theorem State.putSlot_authority (s : State) (p : Port) (x : Slot) :
    (s.putSlot p x).authority = s.authority := rfl
@[simp] theorem State.putSlot_store (s : State) (p : Port) (x : Slot) :
    (s.putSlot p x).store = s.store := rfl
@[simp] theorem State.putSlot_calendar (s : State) (p : Port) (x : Slot) :
    (s.putSlot p x).calendar = s.calendar := rfl
@[simp] theorem State.putSlot_inboxes (s : State) (p : Port) (x : Slot) :
    (s.putSlot p x).inboxes = s.inboxes := rfl
@[simp] theorem State.putSlot_events (s : State) (p : Port) (x : Slot) :
    (s.putSlot p x).events = s.events := rfl
@[simp] theorem State.putSlot_outputs (s : State) (p : Port) (x : Slot) :
    (s.putSlot p x).outputs = s.outputs := rfl
@[simp] theorem State.putSlot_reports (s : State) (p : Port) (x : Slot) :
    (s.putSlot p x).reports = s.reports := rfl
@[simp] theorem State.putSlot_ports (s : State) (p : Port) (x : Slot) :
    (s.putSlot p x).ports = s.ports.put p { s.ports.get p with slot := x } := rfl
@[simp] theorem State.putSlot_resetAsserted (s : State) (p : Port) (x : Slot) :
    (s.putSlot p x).resetAsserted = s.resetAsserted := rfl
@[simp] theorem State.putSlot_departing (s : State) (p : Port) (x : Slot) :
    (s.putSlot p x).departing = s.departing := rfl
@[simp] theorem State.putSlot_draws (s : State) (p : Port) (x : Slot) :
    (s.putSlot p x).draws = s.draws := rfl
@[simp] theorem State.putSlot_pending (s : State) (p : Port) (x : Slot) :
    (s.putSlot p x).pending = s.pending := rfl

@[simp] theorem State.putInbox_time (s : State) (p : Port) (x : Inbox) :
    (s.putInbox p x).time = s.time := rfl
@[simp] theorem State.putInbox_authority (s : State) (p : Port) (x : Inbox) :
    (s.putInbox p x).authority = s.authority := rfl
@[simp] theorem State.putInbox_store (s : State) (p : Port) (x : Inbox) :
    (s.putInbox p x).store = s.store := rfl
@[simp] theorem State.putInbox_calendar (s : State) (p : Port) (x : Inbox) :
    (s.putInbox p x).calendar = s.calendar := rfl
@[simp] theorem State.putInbox_inboxes (s : State) (p : Port) (x : Inbox) :
    (s.putInbox p x).inboxes = s.inboxes.put p x := rfl
@[simp] theorem State.putInbox_events (s : State) (p : Port) (x : Inbox) :
    (s.putInbox p x).events = s.events := rfl
@[simp] theorem State.putInbox_outputs (s : State) (p : Port) (x : Inbox) :
    (s.putInbox p x).outputs = s.outputs := rfl
@[simp] theorem State.putInbox_reports (s : State) (p : Port) (x : Inbox) :
    (s.putInbox p x).reports = s.reports := rfl
@[simp] theorem State.putInbox_ports (s : State) (p : Port) (x : Inbox) :
    (s.putInbox p x).ports = s.ports := rfl
@[simp] theorem State.putInbox_resetAsserted (s : State) (p : Port) (x : Inbox) :
    (s.putInbox p x).resetAsserted = s.resetAsserted := rfl
@[simp] theorem State.putInbox_departing (s : State) (p : Port) (x : Inbox) :
    (s.putInbox p x).departing = s.departing := rfl
@[simp] theorem State.putInbox_draws (s : State) (p : Port) (x : Inbox) :
    (s.putInbox p x).draws = s.draws := rfl
@[simp] theorem State.putInbox_pending (s : State) (p : Port) (x : Inbox) :
    (s.putInbox p x).pending = s.pending := rfl

@[simp] theorem State.putReports_time (s : State) (p : Port) (x : ReportQueue) :
    (s.putReports p x).time = s.time := rfl
@[simp] theorem State.putReports_authority (s : State) (p : Port) (x : ReportQueue) :
    (s.putReports p x).authority = s.authority := rfl
@[simp] theorem State.putReports_store (s : State) (p : Port) (x : ReportQueue) :
    (s.putReports p x).store = s.store := rfl
@[simp] theorem State.putReports_calendar (s : State) (p : Port) (x : ReportQueue) :
    (s.putReports p x).calendar = s.calendar := rfl
@[simp] theorem State.putReports_inboxes (s : State) (p : Port) (x : ReportQueue) :
    (s.putReports p x).inboxes = s.inboxes := rfl
@[simp] theorem State.putReports_events (s : State) (p : Port) (x : ReportQueue) :
    (s.putReports p x).events = s.events := rfl
@[simp] theorem State.putReports_outputs (s : State) (p : Port) (x : ReportQueue) :
    (s.putReports p x).outputs = s.outputs := rfl
@[simp] theorem State.putReports_reports (s : State) (p : Port) (x : ReportQueue) :
    (s.putReports p x).reports = s.reports.put p x := rfl
@[simp] theorem State.putReports_ports (s : State) (p : Port) (x : ReportQueue) :
    (s.putReports p x).ports = s.ports := rfl
@[simp] theorem State.putReports_resetAsserted (s : State) (p : Port) (x : ReportQueue) :
    (s.putReports p x).resetAsserted = s.resetAsserted := rfl
@[simp] theorem State.putReports_departing (s : State) (p : Port) (x : ReportQueue) :
    (s.putReports p x).departing = s.departing := rfl
@[simp] theorem State.putReports_draws (s : State) (p : Port) (x : ReportQueue) :
    (s.putReports p x).draws = s.draws := rfl
@[simp] theorem State.putReports_pending (s : State) (p : Port) (x : ReportQueue) :
    (s.putReports p x).pending = s.pending := rfl

@[simp] theorem State.putOut_time (s : State) (o : OutLine) (x : OutStage) :
    (s.putOut o x).time = s.time := rfl
@[simp] theorem State.putOut_authority (s : State) (o : OutLine) (x : OutStage) :
    (s.putOut o x).authority = s.authority := rfl
@[simp] theorem State.putOut_store (s : State) (o : OutLine) (x : OutStage) :
    (s.putOut o x).store = s.store := rfl
@[simp] theorem State.putOut_calendar (s : State) (o : OutLine) (x : OutStage) :
    (s.putOut o x).calendar = s.calendar := rfl
@[simp] theorem State.putOut_inboxes (s : State) (o : OutLine) (x : OutStage) :
    (s.putOut o x).inboxes = s.inboxes := rfl
@[simp] theorem State.putOut_events (s : State) (o : OutLine) (x : OutStage) :
    (s.putOut o x).events = s.events := rfl
@[simp] theorem State.putOut_outputs (s : State) (o : OutLine) (x : OutStage) :
    (s.putOut o x).outputs = s.outputs.put o x := rfl
@[simp] theorem State.putOut_reports (s : State) (o : OutLine) (x : OutStage) :
    (s.putOut o x).reports = s.reports := rfl
@[simp] theorem State.putOut_ports (s : State) (o : OutLine) (x : OutStage) :
    (s.putOut o x).ports = s.ports := rfl
@[simp] theorem State.putOut_resetAsserted (s : State) (o : OutLine) (x : OutStage) :
    (s.putOut o x).resetAsserted = s.resetAsserted := rfl
@[simp] theorem State.putOut_departing (s : State) (o : OutLine) (x : OutStage) :
    (s.putOut o x).departing = s.departing := rfl
@[simp] theorem State.putOut_draws (s : State) (o : OutLine) (x : OutStage) :
    (s.putOut o x).draws = s.draws := rfl
@[simp] theorem State.putOut_pending (s : State) (o : OutLine) (x : OutStage) :
    (s.putOut o x).pending = s.pending := rfl

@[simp] theorem State.putLine_time (s : State) (l : EvLine) (x : EventLine) :
    (s.putLine l x).time = s.time := rfl
@[simp] theorem State.putLine_authority (s : State) (l : EvLine) (x : EventLine) :
    (s.putLine l x).authority = s.authority := rfl
@[simp] theorem State.putLine_store (s : State) (l : EvLine) (x : EventLine) :
    (s.putLine l x).store = s.store := rfl
@[simp] theorem State.putLine_calendar (s : State) (l : EvLine) (x : EventLine) :
    (s.putLine l x).calendar = s.calendar := rfl
@[simp] theorem State.putLine_inboxes (s : State) (l : EvLine) (x : EventLine) :
    (s.putLine l x).inboxes = s.inboxes := rfl
@[simp] theorem State.putLine_events (s : State) (l : EvLine) (x : EventLine) :
    (s.putLine l x).events = { s.events with lines := s.events.lines.put l x } := rfl
@[simp] theorem State.putLine_outputs (s : State) (l : EvLine) (x : EventLine) :
    (s.putLine l x).outputs = s.outputs := rfl
@[simp] theorem State.putLine_reports (s : State) (l : EvLine) (x : EventLine) :
    (s.putLine l x).reports = s.reports := rfl
@[simp] theorem State.putLine_ports (s : State) (l : EvLine) (x : EventLine) :
    (s.putLine l x).ports = s.ports := rfl
@[simp] theorem State.putLine_resetAsserted (s : State) (l : EvLine) (x : EventLine) :
    (s.putLine l x).resetAsserted = s.resetAsserted := rfl
@[simp] theorem State.putLine_departing (s : State) (l : EvLine) (x : EventLine) :
    (s.putLine l x).departing = s.departing := rfl
@[simp] theorem State.putLine_draws (s : State) (l : EvLine) (x : EventLine) :
    (s.putLine l x).draws = s.draws := rfl
@[simp] theorem State.putLine_pending (s : State) (l : EvLine) (x : EventLine) :
    (s.putLine l x).pending = s.pending := rfl

@[simp] theorem State.putArming_time (s : State) (x : Option Arming) :
    (s.putArming x).time = s.time := rfl
@[simp] theorem State.putArming_authority (s : State) (x : Option Arming) :
    (s.putArming x).authority = s.authority := rfl
@[simp] theorem State.putArming_store (s : State) (x : Option Arming) :
    (s.putArming x).store = s.store := rfl
@[simp] theorem State.putArming_calendar (s : State) (x : Option Arming) :
    (s.putArming x).calendar = s.calendar := rfl
@[simp] theorem State.putArming_inboxes (s : State) (x : Option Arming) :
    (s.putArming x).inboxes = s.inboxes := rfl
@[simp] theorem State.putArming_events (s : State) (x : Option Arming) :
    (s.putArming x).events = { s.events with arming := x } := rfl
@[simp] theorem State.putArming_outputs (s : State) (x : Option Arming) :
    (s.putArming x).outputs = s.outputs := rfl
@[simp] theorem State.putArming_reports (s : State) (x : Option Arming) :
    (s.putArming x).reports = s.reports := rfl
@[simp] theorem State.putArming_ports (s : State) (x : Option Arming) :
    (s.putArming x).ports = s.ports := rfl
@[simp] theorem State.putArming_resetAsserted (s : State) (x : Option Arming) :
    (s.putArming x).resetAsserted = s.resetAsserted := rfl
@[simp] theorem State.putArming_departing (s : State) (x : Option Arming) :
    (s.putArming x).departing = s.departing := rfl
@[simp] theorem State.putArming_draws (s : State) (x : Option Arming) :
    (s.putArming x).draws = s.draws := rfl
@[simp] theorem State.putArming_pending (s : State) (x : Option Arming) :
    (s.putArming x).pending = s.pending := rfl

@[simp] theorem State.putOutOwner_time (s : State) (o : OutLine) (x : Option Port) :
    (s.putOutOwner o x).time = s.time := rfl
@[simp] theorem State.putOutOwner_authority (s : State) (o : OutLine) (x : Option Port) :
    (s.putOutOwner o x).authority = s.authority := rfl
@[simp] theorem State.putOutOwner_store (s : State) (o : OutLine) (x : Option Port) :
    (s.putOutOwner o x).store = s.store := rfl
@[simp] theorem State.putOutOwner_calendar (s : State) (o : OutLine) (x : Option Port) :
    (s.putOutOwner o x).calendar = s.calendar := rfl
@[simp] theorem State.putOutOwner_inboxes (s : State) (o : OutLine) (x : Option Port) :
    (s.putOutOwner o x).inboxes = s.inboxes := rfl
@[simp] theorem State.putOutOwner_events (s : State) (o : OutLine) (x : Option Port) :
    (s.putOutOwner o x).events = { s.events with outOwner := s.events.outOwner.put o x } := rfl
@[simp] theorem State.putOutOwner_outputs (s : State) (o : OutLine) (x : Option Port) :
    (s.putOutOwner o x).outputs = s.outputs := rfl
@[simp] theorem State.putOutOwner_reports (s : State) (o : OutLine) (x : Option Port) :
    (s.putOutOwner o x).reports = s.reports := rfl
@[simp] theorem State.putOutOwner_ports (s : State) (o : OutLine) (x : Option Port) :
    (s.putOutOwner o x).ports = s.ports := rfl
@[simp] theorem State.putOutOwner_resetAsserted (s : State) (o : OutLine) (x : Option Port) :
    (s.putOutOwner o x).resetAsserted = s.resetAsserted := rfl
@[simp] theorem State.putOutOwner_departing (s : State) (o : OutLine) (x : Option Port) :
    (s.putOutOwner o x).departing = s.departing := rfl
@[simp] theorem State.putOutOwner_draws (s : State) (o : OutLine) (x : Option Port) :
    (s.putOutOwner o x).draws = s.draws := rfl
@[simp] theorem State.putOutOwner_pending (s : State) (o : OutLine) (x : Option Port) :
    (s.putOutOwner o x).pending = s.pending := rfl

@[simp] theorem State.settleTick_time (s : State) : s.settleTick.time = s.time.settle := rfl
@[simp] theorem State.settleTick_authority (s : State) : s.settleTick.authority = s.authority := rfl
@[simp] theorem State.settleTick_store (s : State) : s.settleTick.store = s.store := rfl
@[simp] theorem State.settleTick_calendar (s : State) : s.settleTick.calendar = s.calendar := rfl
@[simp] theorem State.settleTick_inboxes (s : State) : s.settleTick.inboxes = s.inboxes := rfl
@[simp] theorem State.settleTick_events (s : State) : s.settleTick.events = s.events := rfl
@[simp] theorem State.settleTick_outputs (s : State) : s.settleTick.outputs = s.outputs := rfl
@[simp] theorem State.settleTick_reports (s : State) : s.settleTick.reports = s.reports := rfl
@[simp] theorem State.settleTick_ports (s : State) : s.settleTick.ports = s.ports := rfl
@[simp] theorem State.settleTick_resetAsserted (s : State) :
    s.settleTick.resetAsserted = s.resetAsserted := rfl
@[simp] theorem State.settleTick_departing (s : State) : s.settleTick.departing = s.departing := rfl
@[simp] theorem State.settleTick_draws (s : State) : s.settleTick.draws = s.draws := rfl
@[simp] theorem State.settleTick_pending (s : State) : s.settleTick.pending = s.pending := rfl

/-! ### Reading a port's parts after an update of another part -/

@[simp] theorem State.putSlot_slot (s : State) (p : Port) (x : Slot) : ((s.putSlot p x).ports.get p).slot = x := by
  simp

@[simp] theorem State.putSlot_session (s : State) (p q : Port) (x : Slot) :
    ((s.putSlot p x).ports.get q).session = (s.ports.get q).session := by
  simp only [putSlot_ports, PerPort.get_put_eq]
  split <;> simp_all

/-! ### The tick of local elapsed time -/

@[simp] theorem TimeBase.settle_epoch (t : TimeBase) : t.settle.epoch = t.epoch := by
  unfold settle tick; split <;> rfl

@[simp] theorem TimeBase.settle_now (t : TimeBase) : t.settle.now = t.now := by
  unfold settle tick; split <;> rfl

@[simp] theorem TimeBase.settle_frac (t : TimeBase) : t.settle.frac = t.frac := by
  unfold settle tick; split <;> rfl

@[simp] theorem TimeBase.settle_timeState (t : TimeBase) : t.settle.timeState = t.timeState := by
  unfold settle tick; split <;> rfl

@[simp] theorem TimeBase.settle_baseRate (t : TimeBase) : t.settle.baseRate = t.baseRate := by
  unfold settle tick; split <;> rfl

@[simp] theorem TimeBase.settle_slew (t : TimeBase) : t.settle.slew = t.slew := by
  unfold settle tick; split <;> rfl

/-- With fewer than 100 periods since the last tick there is none to take. -/
theorem TimeBase.settle_eq_self {t : TimeBase} (h : t.periods < periodsPerTick) : t.settle = t := by
  unfold settle
  rw [if_neg (by omega)]

/-- After at most 100 periods, at most one tick was outstanding. -/
theorem TimeBase.settle_periods {t : TimeBase} (h : t.periods ≤ periodsPerTick) :
    t.settle.periods < periodsPerTick := by
  unfold settle
  split
  · change t.periods - periodsPerTick < periodsPerTick
    unfold periodsPerTick at *
    omega
  · omega

/-- No tick outstanding, no change. -/
theorem State.settleTick_eq_self {s : State} (h : s.time.periods < periodsPerTick) : s.settleTick = s := by
  simp only [State.settleTick, TimeBase.settle_eq_self h]

/-- With at most 100 periods counted, taking the outstanding tick leaves none outstanding. -/
theorem State.settleTick_settleTick {s : State} (h : s.time.periods ≤ periodsPerTick) :
    s.settleTick.settleTick = s.settleTick :=
  State.settleTick_eq_self (TimeBase.settle_periods h)

/-- The stamp does not depend on local elapsed time. -/
@[simp] theorem State.settleTick_stamp (s : State) : s.settleTick.stamp = s.stamp := by
  simp [State.stamp]

end Machine

end Sys2Proof
end

