-- ==== Sys2Proof/Laws/Execution.lean ====
section
/-! SUPPORT. What the execution event of a command can do, said once: the three outcomes of `execution`,
the four of `gate`, and what `complete` leaves. -/

namespace Sys2Proof.Machine

variable {row : CommandRow} {body : Port → List Byte → State → Reply} {p : Port} {s t : State}
  {c : Command} {d o : Bool}

/-- A pending command of the row's code is carried out through the gate, against the state with an
outstanding tick taken, and its response made READY. -/
theorem execution_of_pending (h : (s.ports.get p).slot = .pending c d o) (hc : c.code = row.code) :
    execution row body p s =
      .next (complete p c.tag d o (gate row p c.params (body p c.params) s.settleTick)) := by
  simp only [execution, h, hc, if_true]

/-- Without one there is no event. -/
theorem execution_of_not_pending
    (h : ∀ c d o, (s.ports.get p).slot = .pending c d o → c.code ≠ row.code) :
    execution row body p s = .next s := by
  unfold execution
  split
  · rename_i c d o hs
    rw [if_neg (h c d o hs)]
  · rfl

/-- All that `execution` can do. -/
theorem execution_cases (h : execution row body p s = .next t) :
    (∃ c d o, (s.ports.get p).slot = .pending c d o ∧ c.code = row.code ∧
      t = complete p c.tag d o (gate row p c.params (body p c.params) s.settleTick)) ∨
    ((∀ c d o, (s.ports.get p).slot = .pending c d o → c.code ≠ row.code) ∧ t = s) := by
  by_cases hp : ∃ c d o, (s.ports.get p).slot = .pending c d o ∧ c.code = row.code
  · obtain ⟨c, d, o, hs, hc⟩ := hp
    rw [execution_of_pending hs hc] at h
    exact .inl ⟨c, d, o, hs, hc, (Host.Outcome.next.inj h).symm⟩
  · have hn : ∀ c d o, (s.ports.get p).slot = .pending c d o → c.code ≠ row.code :=
      fun c d o hs hc => hp ⟨c, d, o, hs, hc⟩
    rw [execution_of_not_pending hn] at h
    exact .inr ⟨hn, (Host.Outcome.next.inj h).symm⟩

/-- Every execution event has a next state. -/
theorem execution_next : ∃ t, execution row body p s = .next t := by
  unfold execution
  split
  · split <;> exact ⟨_, rfl⟩
  · exact ⟨_, rfl⟩

/-! ### The gate -/

/-- A detached port is refused first (R162). -/
theorem gate_notAttached {params : List Byte} {f : State → Reply} (hr : row.anySession = false)
    (h : ¬ s.attached p) : gate row p params f s = refuse s .notAttached := by
  unfold gate
  rw [if_pos ⟨hr, h⟩]

/-- Then a port that is not the holder (R36). -/
theorem gate_notAuthority {params : List Byte} {f : State → Reply}
    (ha : row.anySession = false → s.attached p) (hr : row.needsAuthority = true) (h : ¬ s.isHolder p) :
    gate row p params f s = refuse s .notAuthority := by
  unfold gate
  rw [if_neg (fun x => x.2 (ha x.1)), if_pos ⟨hr, h⟩]

/-- Then a short parameter block (R162). -/
theorem gate_short {params : List Byte} {f : State → Reply} (ha : row.anySession = false → s.attached p)
    (hh : row.needsAuthority = true → s.isHolder p) (h : params.length < row.length) :
    gate row p params f s = refuse s .badParam := by
  unfold gate
  rw [if_neg (fun x => x.2 (ha x.1)), if_neg (fun x => x.2 (hh x.1)), if_pos h]

/-- A command that passes the three goes on to its own rule. -/
theorem gate_passes {params : List Byte} {f : State → Reply} (ha : row.anySession = false → s.attached p)
    (hh : row.needsAuthority = true → s.isHolder p) (h : row.length ≤ params.length) :
    gate row p params f s = f s := by
  unfold gate
  rw [if_neg (fun x => x.2 (ha x.1)), if_neg (fun x => x.2 (hh x.1)), if_neg (by omega)]

/-- A command that passes every check before its own rule ends with its own rule's reply. -/
theorem execution_of_passes (h : (s.ports.get p).slot = .pending c d o) (hc : c.code = row.code)
    (ha : row.anySession = false → s.attached p) (hh : row.needsAuthority = true → s.isHolder p)
    (hl : row.length ≤ c.params.length) :
    execution row body p s = .next (complete p c.tag d o (body p c.params s.settleTick)) := by
  rw [execution_of_pending h hc, gate_passes (s := s.settleTick) ha hh hl]

/-! ### The response -/

section

variable (p : Port) (tag : Byte) (d o : Bool) (r : Reply)

@[simp] theorem complete_time : (complete p tag d o r).time = r.state.time := rfl
@[simp] theorem complete_authority : (complete p tag d o r).authority = r.state.authority := rfl
@[simp] theorem complete_store : (complete p tag d o r).store = r.state.store := rfl
@[simp] theorem complete_calendar : (complete p tag d o r).calendar = r.state.calendar := rfl
@[simp] theorem complete_inboxes : (complete p tag d o r).inboxes = r.state.inboxes := rfl
@[simp] theorem complete_events : (complete p tag d o r).events = r.state.events := rfl
@[simp] theorem complete_outputs : (complete p tag d o r).outputs = r.state.outputs := rfl
@[simp] theorem complete_reports : (complete p tag d o r).reports = r.state.reports := rfl
@[simp] theorem complete_resetAsserted : (complete p tag d o r).resetAsserted = r.state.resetAsserted := rfl
@[simp] theorem complete_departing : (complete p tag d o r).departing = r.state.departing := rfl
@[simp] theorem complete_draws : (complete p tag d o r).draws = r.state.draws := rfl
@[simp] theorem complete_pending : (complete p tag d o r).pending = r.state.pending := rfl

/-- The slot is READY with the response. -/
@[simp] theorem complete_slot :
    ((complete p tag d o r).ports.get p).slot = .ready (r.state.response p tag d o r.answer) := by
  simp [complete]

/-- A session state is no part of a response. -/
@[simp] theorem complete_session (q : Port) :
    ((complete p tag d o r).ports.get q).session = (r.state.ports.get q).session :=
  State.putSlot_session _ _ _ _

end

end Sys2Proof.Machine
end

