-- ==== Sys2Proof/Laws/Memory.lean ====
section
/-! SUPPORT. The block pool: a read after a write, and the canonical form that every write keeps. -/

namespace Sys2Proof.Machine

theorem canonicalFrom_cons {low a : Nat} {b : Byte} {rest : List Host.Cell} :
    canonicalFrom low ((a, b) :: rest) = true ↔
      low ≤ a ∧ b ≠ Config.unwrittenByte ∧ canonicalFrom (a + 1) rest = true := by
  simp [canonicalFrom, and_assoc]

/-- A canonical list stays canonical from any lower address. -/
theorem canonicalFrom_mono {low low' : Nat} (h : low' ≤ low) {m : List Host.Cell}
    (hm : canonicalFrom low m = true) : canonicalFrom low' m = true := by
  cases m with
  | nil => rfl
  | cons c rest =>
    obtain ⟨a, b⟩ := c
    rw [canonicalFrom_cons] at hm ⊢
    exact ⟨by omega, hm.2⟩

/-- A byte below every listed address reads as unwritten. -/
theorem readByte_below {low n : Nat} (h : n < low) {m : List Host.Cell} (hm : canonicalFrom low m = true) :
    readByte m n = Config.unwrittenByte := by
  induction m generalizing low with
  | nil => rfl
  | cons c rest ih =>
    obtain ⟨a, b⟩ := c
    rw [canonicalFrom_cons] at hm
    have : a ≠ n := by omega
    simp only [readByte, this, if_false]
    exact ih (by omega) hm.2.2

/-- A write keeps the canonical form. -/
theorem canonicalFrom_writeByte {low n : Nat} (x : Byte) (h : low ≤ n) {m : List Host.Cell}
    (hm : canonicalFrom low m = true) : canonicalFrom low (writeByte m n x) = true := by
  induction m generalizing low with
  | nil =>
    unfold writeByte
    split
    · rfl
    · rw [canonicalFrom_cons]; exact ⟨h, ‹_›, rfl⟩
  | cons c rest ih =>
    obtain ⟨a, b⟩ := c
    have k := canonicalFrom_cons.mp hm
    unfold writeByte
    split
    · split
      · exact hm
      · rw [canonicalFrom_cons, canonicalFrom_cons]
        exact ⟨h, ‹_›, by omega, k.2⟩
    · split
      · split
        · exact canonicalFrom_mono (by omega) k.2.2
        · subst n; rw [canonicalFrom_cons]; exact ⟨h, ‹_›, k.2.2⟩
      · rw [canonicalFrom_cons]; exact ⟨k.1, k.2.1, ih (by omega) k.2.2⟩

theorem writeByte_wf {m : List Host.Cell} (n : Nat) (x : Byte) (hm : Memory.wf m = true) :
    Memory.wf (writeByte m n x) = true := canonicalFrom_writeByte x (Nat.zero_le n) hm

theorem readByte_writeByte_from {low n : Nat} (x : Byte) (a : Nat) {m : List Host.Cell}
    (hm : canonicalFrom low m = true) :
    readByte (writeByte m n x) a = if a = n then x else readByte m a := by
  induction m generalizing low with
  | nil =>
    unfold writeByte
    by_cases h : a = n
    · subst h
      split
      · rename_i hx; rw [if_pos rfl, hx]; rfl
      · simp [readByte]
    · have hn : n ≠ a := fun e => h e.symm
      split <;> simp [readByte, hn]
  | cons c rest ih =>
    obtain ⟨b, y⟩ := c
    have k := canonicalFrom_cons.mp hm
    unfold writeByte
    by_cases ha : a = n
    · subst a
      simp only [if_true]
      split
      · split
        · rename_i hx
          rw [hx]
          exact readByte_below (by omega) (canonicalFrom_cons.mpr ⟨Nat.le_refl b, k.2⟩)
        · simp [readByte]
      · split
        · split
          · rename_i hx
            rw [hx]; exact readByte_below (by omega) k.2.2
          · simp [readByte]
        · have : b ≠ n := fun e => by omega
          simp only [readByte, this, if_false]
          rw [ih k.2.2, if_pos rfl]
    · simp only [ha, if_false]
      have hn : n ≠ a := fun e => ha e.symm
      split
      · split
        · rfl
        · simp [readByte, hn]
      · split
        · rename_i hb
          have : b ≠ a := by omega
          split <;> simp [readByte, this, hn]
        · by_cases hb : b = a
          · simp [readByte, hb]
          · simp only [readByte, hb, if_false]
            rw [ih k.2.2, if_neg ha]

/-- A read after a write to a pool in canonical form: the byte written, and every other as before. -/
theorem readByte_writeByte {m : List Host.Cell} (n : Nat) (x : Byte) (a : Nat) (hm : Memory.wf m = true) :
    readByte (writeByte m n x) a = if a = n then x else readByte m a := readByte_writeByte_from x a hm

/-- Writing a payload keeps the canonical form (R46). -/
theorem writePayloadBytes_wf (chain : List BlockNo) {m : List Host.Cell} (offset : Nat) (data : List Byte)
    (hm : Memory.wf m = true) : Memory.wf (writePayloadBytes chain m offset data) = true := by
  induction data generalizing m offset with
  | nil => exact hm
  | cons b rest ih => exact ih _ (writeByte_wf _ _ hm)

/-- Writing a payload leaves every byte outside its positions as it was (R46). -/
theorem readByte_writePayloadBytes_outside (chain : List BlockNo) {m : List Host.Cell} (offset : Nat)
    (data : List Byte) (a : Nat) (hm : Memory.wf m = true)
    (ha : ∀ k < data.length, a ≠ payloadAddress chain (offset + k)) :
    readByte (writePayloadBytes chain m offset data) a = readByte m a := by
  induction data generalizing m offset with
  | nil => rfl
  | cons b rest ih =>
    rw [writePayloadBytes, ih _ (writeByte_wf _ _ hm), readByte_writeByte _ _ _ hm, if_neg]
    · exact ha 0 (by simp)
    · intro k hk
      have := ha (k + 1) (by simpa using hk)
      rwa [show offset + 1 + k = offset + (k + 1) by omega]

/-- The pool after device reset is in canonical form. -/
theorem reset_pool_wf : Memory.wf State.reset.store.pool = true := rfl

/-! ### The Message Store's operations keep the form -/

theorem Store.append_wf (st : Store) (i : RecordNo) (m : Message) (data : List Byte)
    (h : Memory.wf st.pool = true) : Memory.wf (st.append i m data).pool = true :=
  writePayloadBytes_wf _ _ _ h

@[simp] theorem Store.openDraft_pool (st : Store) (p : Port) (tag : BitVec 16) (i : RecordNo)
    (rest : List RecordNo) : (st.openDraft p tag i rest).pool = st.pool := rfl

@[simp] theorem Store.release_pool (st : Store) (i : RecordNo) (m : Message) :
    (st.release i m).pool = st.pool := rfl

/-- Abandoning the drafts of a port writes no byte of the pool (R61). -/
@[simp] theorem Store.abandonDrafts_pool (st : Store) (p : Port) : (st.abandonDrafts p).pool = st.pool := by
  unfold Store.abandonDrafts
  induction List.finRange 128 generalizing st with
  | nil => rfl
  | cons i l ih =>
    rw [List.foldl_cons, ih]
    split
    · split <;> rfl
    · rfl

end Sys2Proof.Machine
end

