-- ==== Sys2Proof/Laws/Reports.lean ====
section
/-! SUPPORT. Reports: what placing a report can do, said once, and all that it leaves alone. -/

namespace Sys2Proof.Machine

/-- All that a report caused for `p` does to the queue of `q`: an offer to that queue when `q` is `p`,
attached, and its session not ending (R147, R156). -/
theorem report_get (p q : Port) (cause : Stamp) (body : ReportBody) (s : State) :
    (report p cause body s).reports.get q =
      if q = p ∧ s.attached p ∧ s.departing ≠ some p then (s.reports.get p).offer cause body
      else s.reports.get q := by
  unfold report
  by_cases h : s.attached p ∧ s.departing ≠ some p
  · rw [if_pos h, State.putReports_reports, PerPort.get_put_eq]
    by_cases hq : q = p <;> simp [hq, h]
  · rw [if_neg h, if_neg (fun x => h x.2)]

/-- A report changes nothing but the report queues. -/
theorem report_eq (p : Port) (cause : Stamp) (body : ReportBody) (s : State) :
    report p cause body s = { s with reports := (report p cause body s).reports } := by
  unfold report
  split <;> rfl

/-- The placing of a report reads nothing but sessions and report queues. -/
theorem report_reports_congr (p : Port) (cause : Stamp) (body : ReportBody) {s s' : State}
    (hr : s'.reports = s.reports) (hp : s'.ports = s.ports) (hd : s'.departing = s.departing) :
    (report p cause body s').reports = (report p cause body s).reports := by
  unfold report State.attached
  rw [hp, hd, hr]
  split <;> simp [State.putReports, hr]

/-- A detached port's report, one for a port whose session is ending, is discarded. -/
theorem report_discarded {p : Port} {s : State} (cause : Stamp) (body : ReportBody)
    (h : ¬ (s.attached p ∧ s.departing ≠ some p)) : report p cause body s = s := if_neg h

/-- Any other report is offered to its queue. -/
theorem report_offered {p : Port} {s : State} (cause : Stamp) (body : ReportBody)
    (h : s.attached p ∧ s.departing ≠ some p) :
    report p cause body s = s.putReports p ((s.reports.get p).offer cause body) := if_pos h

@[simp] theorem report_time (p : Port) (c : Stamp) (b : ReportBody) (s : State) :
    (report p c b s).time = s.time := by
  unfold report; split <;> rfl
@[simp] theorem report_authority (p : Port) (c : Stamp) (b : ReportBody) (s : State) :
    (report p c b s).authority = s.authority := by
  unfold report; split <;> rfl
@[simp] theorem report_store (p : Port) (c : Stamp) (b : ReportBody) (s : State) :
    (report p c b s).store = s.store := by
  unfold report; split <;> rfl
@[simp] theorem report_calendar (p : Port) (c : Stamp) (b : ReportBody) (s : State) :
    (report p c b s).calendar = s.calendar := by
  unfold report; split <;> rfl
@[simp] theorem report_inboxes (p : Port) (c : Stamp) (b : ReportBody) (s : State) :
    (report p c b s).inboxes = s.inboxes := by
  unfold report; split <;> rfl
@[simp] theorem report_events (p : Port) (c : Stamp) (b : ReportBody) (s : State) :
    (report p c b s).events = s.events := by
  unfold report; split <;> rfl
@[simp] theorem report_outputs (p : Port) (c : Stamp) (b : ReportBody) (s : State) :
    (report p c b s).outputs = s.outputs := by
  unfold report; split <;> rfl
@[simp] theorem report_ports (p : Port) (c : Stamp) (b : ReportBody) (s : State) :
    (report p c b s).ports = s.ports := by
  unfold report; split <;> rfl
@[simp] theorem report_resetAsserted (p : Port) (c : Stamp) (b : ReportBody) (s : State) :
    (report p c b s).resetAsserted = s.resetAsserted := by
  unfold report; split <;> rfl
@[simp] theorem report_departing (p : Port) (c : Stamp) (b : ReportBody) (s : State) :
    (report p c b s).departing = s.departing := by
  unfold report; split <;> rfl
@[simp] theorem report_draws (p : Port) (c : Stamp) (b : ReportBody) (s : State) :
    (report p c b s).draws = s.draws := by
  unfold report; split <;> rfl
@[simp] theorem report_pending (p : Port) (c : Stamp) (b : ReportBody) (s : State) :
    (report p c b s).pending = s.pending := by
  unfold report; split <;> rfl

@[simp] theorem reportNow_time (p : Port) (b : ReportBody) (s : State) :
    (reportNow p b s).time = s.time := by
  simp [reportNow]
@[simp] theorem reportNow_authority (p : Port) (b : ReportBody) (s : State) :
    (reportNow p b s).authority = s.authority := by
  simp [reportNow]
@[simp] theorem reportNow_store (p : Port) (b : ReportBody) (s : State) :
    (reportNow p b s).store = s.store := by
  simp [reportNow]
@[simp] theorem reportNow_calendar (p : Port) (b : ReportBody) (s : State) :
    (reportNow p b s).calendar = s.calendar := by
  simp [reportNow]
@[simp] theorem reportNow_inboxes (p : Port) (b : ReportBody) (s : State) :
    (reportNow p b s).inboxes = s.inboxes := by
  simp [reportNow]
@[simp] theorem reportNow_events (p : Port) (b : ReportBody) (s : State) :
    (reportNow p b s).events = s.events := by
  simp [reportNow]
@[simp] theorem reportNow_outputs (p : Port) (b : ReportBody) (s : State) :
    (reportNow p b s).outputs = s.outputs := by
  simp [reportNow]
@[simp] theorem reportNow_ports (p : Port) (b : ReportBody) (s : State) :
    (reportNow p b s).ports = s.ports := by
  simp [reportNow]
@[simp] theorem reportNow_resetAsserted (p : Port) (b : ReportBody) (s : State) :
    (reportNow p b s).resetAsserted = s.resetAsserted := by
  simp [reportNow]
@[simp] theorem reportNow_departing (p : Port) (b : ReportBody) (s : State) :
    (reportNow p b s).departing = s.departing := by
  simp [reportNow]
@[simp] theorem reportNow_draws (p : Port) (b : ReportBody) (s : State) :
    (reportNow p b s).draws = s.draws := by
  simp [reportNow]
@[simp] theorem reportNow_pending (p : Port) (b : ReportBody) (s : State) :
    (reportNow p b s).pending = s.pending := by
  simp [reportNow]

@[simp] theorem reportHolder_time (b : ReportBody) (s : State) :
    (reportHolder b s).time = s.time := by
  unfold reportHolder; split <;> simp
@[simp] theorem reportHolder_authority (b : ReportBody) (s : State) :
    (reportHolder b s).authority = s.authority := by
  unfold reportHolder; split <;> simp
@[simp] theorem reportHolder_store (b : ReportBody) (s : State) :
    (reportHolder b s).store = s.store := by
  unfold reportHolder; split <;> simp
@[simp] theorem reportHolder_calendar (b : ReportBody) (s : State) :
    (reportHolder b s).calendar = s.calendar := by
  unfold reportHolder; split <;> simp
@[simp] theorem reportHolder_inboxes (b : ReportBody) (s : State) :
    (reportHolder b s).inboxes = s.inboxes := by
  unfold reportHolder; split <;> simp
@[simp] theorem reportHolder_events (b : ReportBody) (s : State) :
    (reportHolder b s).events = s.events := by
  unfold reportHolder; split <;> simp
@[simp] theorem reportHolder_outputs (b : ReportBody) (s : State) :
    (reportHolder b s).outputs = s.outputs := by
  unfold reportHolder; split <;> simp
@[simp] theorem reportHolder_ports (b : ReportBody) (s : State) :
    (reportHolder b s).ports = s.ports := by
  unfold reportHolder; split <;> simp
@[simp] theorem reportHolder_resetAsserted (b : ReportBody) (s : State) :
    (reportHolder b s).resetAsserted = s.resetAsserted := by
  unfold reportHolder; split <;> simp
@[simp] theorem reportHolder_departing (b : ReportBody) (s : State) :
    (reportHolder b s).departing = s.departing := by
  unfold reportHolder; split <;> simp
@[simp] theorem reportHolder_draws (b : ReportBody) (s : State) :
    (reportHolder b s).draws = s.draws := by
  unfold reportHolder; split <;> simp
@[simp] theorem reportHolder_pending (b : ReportBody) (s : State) :
    (reportHolder b s).pending = s.pending := by
  unfold reportHolder; split <;> simp

/-- No report attaches or detaches a port. -/
@[simp] theorem report_attached (p : Port) (c : Stamp) (b : ReportBody) (s : State) (q : Port) :
    (report p c b s).attached q ↔ s.attached q := by
  simp only [State.attached, report_ports]

/-- A report does not move Common Time. -/
@[simp] theorem report_stamp (p : Port) (c : Stamp) (b : ReportBody) (s : State) :
    (report p c b s).stamp = s.stamp := by
  simp [State.stamp]

/-! ### The queue (R148, R149) -/

/-- A masked report is not stored. -/
theorem ReportQueue.offer_masked {q : ReportQueue} {cause : Stamp} {body : ReportBody}
    (h : q.mask[body.kind] = false) : q.offer cause body = q := if_pos h

/-- All that an offer can do. -/
theorem ReportQueue.offer_cases (q : ReportQueue) (cause : Stamp) (body : ReportBody) :
    q.offer cause body = q ∨
    (q.lostOpen = true ∧ q.offer cause body = { q with reports := foldNewest cause q.reports }) ∨
    (q.lostOpen = false ∧ q.reports.length < reportCapacity - 1 ∧ q.offer cause body = q.store cause body) ∨
    (q.lostOpen = false ∧ reportCapacity - 1 ≤ q.reports.length ∧
      q.offer cause body = { q.store cause (.reportsLost 1 cause) with lostOpen := true }) := by
  unfold ReportQueue.offer
  by_cases hm : q.mask[body.kind] = false
  · exact .inl (if_pos hm)
  rw [if_neg hm]
  by_cases hl : q.lostOpen = true
  · exact .inr (.inl ⟨hl, if_pos hl⟩)
  rw [if_neg hl]
  have hl' : q.lostOpen = false := by simpa using hl
  by_cases hn : q.reports.length < reportCapacity - 1
  · exact .inr (.inr (.inl ⟨hl', hn, if_pos hn⟩))
  · exact .inr (.inr (.inr ⟨hl', by omega, if_neg hn⟩))

/-- The newest report of a non-empty queue takes the fold. -/
theorem foldNewest_append (cause : Stamp) (front : List Report) (r : Report) :
    foldNewest cause (front ++ [r]) = front ++ [r.fold cause] := by
  induction front with
  | nil => rfl
  | cons x rest ih =>
    cases rest with
    | nil => rfl
    | cons y rest' =>
      simp only [List.cons_append, foldNewest] at ih ⊢
      rw [ih]

/-- Folding moves no report and adds none. -/
@[simp] theorem foldNewest_length (cause : Stamp) (rs : List Report) :
    (foldNewest cause rs).length = rs.length := by
  induction rs with
  | nil => rfl
  | cons x rest ih =>
    cases rest with
    | nil => rfl
    | cons y rest' => simpa [foldNewest] using ih

end Sys2Proof.Machine
end

