-- ==== Sys2Proof/Laws/Releases.lean ====
section
/-! SUPPORT. Releases: what one occurrence leaves alone, and with it every release of one event. -/

namespace Sys2Proof.Machine

/-! ### References -/

@[simp] theorem takeReference_time (i : RecordNo) (s : State) : (takeReference i s).time = s.time := rfl
@[simp] theorem takeReference_authority (i : RecordNo) (s : State) :
    (takeReference i s).authority = s.authority := rfl
@[simp] theorem takeReference_calendar (i : RecordNo) (s : State) :
    (takeReference i s).calendar = s.calendar := rfl
@[simp] theorem takeReference_inboxes (i : RecordNo) (s : State) :
    (takeReference i s).inboxes = s.inboxes := rfl
@[simp] theorem takeReference_events (i : RecordNo) (s : State) :
    (takeReference i s).events = s.events := rfl
@[simp] theorem takeReference_outputs (i : RecordNo) (s : State) :
    (takeReference i s).outputs = s.outputs := rfl
@[simp] theorem takeReference_reports (i : RecordNo) (s : State) :
    (takeReference i s).reports = s.reports := rfl
@[simp] theorem takeReference_ports (i : RecordNo) (s : State) :
    (takeReference i s).ports = s.ports := rfl
@[simp] theorem takeReference_resetAsserted (i : RecordNo) (s : State) :
    (takeReference i s).resetAsserted = s.resetAsserted := rfl
@[simp] theorem takeReference_departing (i : RecordNo) (s : State) :
    (takeReference i s).departing = s.departing := rfl
@[simp] theorem takeReference_draws (i : RecordNo) (s : State) :
    (takeReference i s).draws = s.draws := rfl
@[simp] theorem takeReference_pending (i : RecordNo) (s : State) :
    (takeReference i s).pending = s.pending := rfl

@[simp] theorem dropReference_time (i : RecordNo) (s : State) : (dropReference i s).time = s.time := rfl
@[simp] theorem dropReference_authority (i : RecordNo) (s : State) :
    (dropReference i s).authority = s.authority := rfl
@[simp] theorem dropReference_calendar (i : RecordNo) (s : State) :
    (dropReference i s).calendar = s.calendar := rfl
@[simp] theorem dropReference_inboxes (i : RecordNo) (s : State) :
    (dropReference i s).inboxes = s.inboxes := rfl
@[simp] theorem dropReference_events (i : RecordNo) (s : State) :
    (dropReference i s).events = s.events := rfl
@[simp] theorem dropReference_outputs (i : RecordNo) (s : State) :
    (dropReference i s).outputs = s.outputs := rfl
@[simp] theorem dropReference_reports (i : RecordNo) (s : State) :
    (dropReference i s).reports = s.reports := rfl
@[simp] theorem dropReference_ports (i : RecordNo) (s : State) :
    (dropReference i s).ports = s.ports := rfl
@[simp] theorem dropReference_resetAsserted (i : RecordNo) (s : State) :
    (dropReference i s).resetAsserted = s.resetAsserted := rfl
@[simp] theorem dropReference_departing (i : RecordNo) (s : State) :
    (dropReference i s).departing = s.departing := rfl
@[simp] theorem dropReference_draws (i : RecordNo) (s : State) :
    (dropReference i s).draws = s.draws := rfl
@[simp] theorem dropReference_pending (i : RecordNo) (s : State) :
    (dropReference i s).pending = s.pending := rfl

@[simp] theorem Store.takeReference_pool (st : Store) (i : RecordNo) : (st.takeReference i).pool = st.pool := by
  unfold Store.takeReference; split <;> rfl

@[simp] theorem Store.takeReference_quota (st : Store) (i : RecordNo) : (st.takeReference i).quota = st.quota := by
  unfold Store.takeReference; split <;> rfl

@[simp] theorem Store.dropReference_pool (st : Store) (i : RecordNo) : (st.dropReference i).pool = st.pool := by
  unfold Store.dropReference; split
  · split <;> rfl
  · rfl

@[simp] theorem Store.dropReference_quota (st : Store) (i : RecordNo) : (st.dropReference i).quota = st.quota := by
  unfold Store.dropReference; split
  · split <;> rfl
  · rfl

@[simp] theorem takeReference_store_pool (i : RecordNo) (s : State) :
    (takeReference i s).store.pool = s.store.pool := by
  simp [takeReference]
@[simp] theorem takeReference_store_quota (i : RecordNo) (s : State) :
    (takeReference i s).store.quota = s.store.quota := by
  simp [takeReference]

@[simp] theorem dropReference_store_pool (i : RecordNo) (s : State) :
    (dropReference i s).store.pool = s.store.pool := by
  simp [dropReference]
@[simp] theorem dropReference_store_quota (i : RecordNo) (s : State) :
    (dropReference i s).store.quota = s.store.quota := by
  simp [dropReference]

/-! ### Placements and line occurrences -/

@[simp] theorem place_time (o : Occurrence) (h : Handle) (p : Port) (s : State) :
    (place o h p s).time = s.time := by
  simp [place]
@[simp] theorem place_authority (o : Occurrence) (h : Handle) (p : Port) (s : State) :
    (place o h p s).authority = s.authority := by
  simp [place]
@[simp] theorem place_calendar (o : Occurrence) (h : Handle) (p : Port) (s : State) :
    (place o h p s).calendar = s.calendar := by
  simp [place]
@[simp] theorem place_events (o : Occurrence) (h : Handle) (p : Port) (s : State) :
    (place o h p s).events = s.events := by
  simp [place]
@[simp] theorem place_outputs (o : Occurrence) (h : Handle) (p : Port) (s : State) :
    (place o h p s).outputs = s.outputs := by
  simp [place]
@[simp] theorem place_reports (o : Occurrence) (h : Handle) (p : Port) (s : State) :
    (place o h p s).reports = s.reports := by
  simp [place]
@[simp] theorem place_ports (o : Occurrence) (h : Handle) (p : Port) (s : State) :
    (place o h p s).ports = s.ports := by
  simp [place]
@[simp] theorem place_resetAsserted (o : Occurrence) (h : Handle) (p : Port) (s : State) :
    (place o h p s).resetAsserted = s.resetAsserted := by
  simp [place]
@[simp] theorem place_departing (o : Occurrence) (h : Handle) (p : Port) (s : State) :
    (place o h p s).departing = s.departing := by
  simp [place]
@[simp] theorem place_draws (o : Occurrence) (h : Handle) (p : Port) (s : State) :
    (place o h p s).draws = s.draws := by
  simp [place]
@[simp] theorem place_pending (o : Occurrence) (h : Handle) (p : Port) (s : State) :
    (place o h p s).pending = s.pending := by
  simp [place]
@[simp] theorem place_store_pool (o : Occurrence) (h : Handle) (p : Port) (s : State) :
    (place o h p s).store.pool = s.store.pool := by
  simp [place]
@[simp] theorem place_store_quota (o : Occurrence) (h : Handle) (p : Port) (s : State) :
    (place o h p s).store.quota = s.store.quota := by
  simp [place]

/-- What a visit keeps, the whole placement keeps. -/
theorem placeAll_keeps {α : Type} (f : State → α) (o : Occurrence) (ts : PerPort Bool) (h : Handle) (s : State)
    (hf : ∀ p s, f (place o h p s) = f s) : f (placeAll o ts h s).state = f s := by
  have go : ∀ (ps : List Port) (x : Placement), f (ps.foldl (visit o h) x).state = f x.state := by
    intro ps
    induction ps with
    | nil => intro x; rfl
    | cons p rest ih =>
      intro x
      rw [List.foldl_cons, ih]
      unfold visit
      split
      · rfl
      · exact hf _ _
  exact go _ _

@[simp] theorem placeAll_time (o : Occurrence) (ts : PerPort Bool) (h : Handle) (s : State) :
    (placeAll o ts h s).state.time = s.time :=
  placeAll_keeps (fun s => s.time) o ts h s (by simp)
@[simp] theorem placeAll_authority (o : Occurrence) (ts : PerPort Bool) (h : Handle) (s : State) :
    (placeAll o ts h s).state.authority = s.authority :=
  placeAll_keeps (fun s => s.authority) o ts h s (by simp)
@[simp] theorem placeAll_calendar (o : Occurrence) (ts : PerPort Bool) (h : Handle) (s : State) :
    (placeAll o ts h s).state.calendar = s.calendar :=
  placeAll_keeps (fun s => s.calendar) o ts h s (by simp)
@[simp] theorem placeAll_events (o : Occurrence) (ts : PerPort Bool) (h : Handle) (s : State) :
    (placeAll o ts h s).state.events = s.events :=
  placeAll_keeps (fun s => s.events) o ts h s (by simp)
@[simp] theorem placeAll_outputs (o : Occurrence) (ts : PerPort Bool) (h : Handle) (s : State) :
    (placeAll o ts h s).state.outputs = s.outputs :=
  placeAll_keeps (fun s => s.outputs) o ts h s (by simp)
@[simp] theorem placeAll_reports (o : Occurrence) (ts : PerPort Bool) (h : Handle) (s : State) :
    (placeAll o ts h s).state.reports = s.reports :=
  placeAll_keeps (fun s => s.reports) o ts h s (by simp)
@[simp] theorem placeAll_ports (o : Occurrence) (ts : PerPort Bool) (h : Handle) (s : State) :
    (placeAll o ts h s).state.ports = s.ports :=
  placeAll_keeps (fun s => s.ports) o ts h s (by simp)
@[simp] theorem placeAll_resetAsserted (o : Occurrence) (ts : PerPort Bool) (h : Handle) (s : State) :
    (placeAll o ts h s).state.resetAsserted = s.resetAsserted :=
  placeAll_keeps (fun s => s.resetAsserted) o ts h s (by simp)
@[simp] theorem placeAll_departing (o : Occurrence) (ts : PerPort Bool) (h : Handle) (s : State) :
    (placeAll o ts h s).state.departing = s.departing :=
  placeAll_keeps (fun s => s.departing) o ts h s (by simp)
@[simp] theorem placeAll_draws (o : Occurrence) (ts : PerPort Bool) (h : Handle) (s : State) :
    (placeAll o ts h s).state.draws = s.draws :=
  placeAll_keeps (fun s => s.draws) o ts h s (by simp)
@[simp] theorem placeAll_pending (o : Occurrence) (ts : PerPort Bool) (h : Handle) (s : State) :
    (placeAll o ts h s).state.pending = s.pending :=
  placeAll_keeps (fun s => s.pending) o ts h s (by simp)
@[simp] theorem placeAll_store_pool (o : Occurrence) (ts : PerPort Bool) (h : Handle) (s : State) :
    (placeAll o ts h s).state.store.pool = s.store.pool :=
  placeAll_keeps (fun s => s.store.pool) o ts h s (by simp)
@[simp] theorem placeAll_store_quota (o : Occurrence) (ts : PerPort Bool) (h : Handle) (s : State) :
    (placeAll o ts h s).state.store.quota = s.store.quota :=
  placeAll_keeps (fun s => s.store.quota) o ts h s (by simp)

@[simp] theorem deliverOccurrence_time (o : Occurrence) (ts : PerPort Bool) (h : Handle) (s : State) :
    (deliverOccurrence o ts h s).1.time = s.time := by
  unfold deliverOccurrence; dsimp only; split <;> simp
@[simp] theorem deliverOccurrence_authority (o : Occurrence) (ts : PerPort Bool) (h : Handle) (s : State) :
    (deliverOccurrence o ts h s).1.authority = s.authority := by
  unfold deliverOccurrence; dsimp only; split <;> simp
@[simp] theorem deliverOccurrence_calendar (o : Occurrence) (ts : PerPort Bool) (h : Handle) (s : State) :
    (deliverOccurrence o ts h s).1.calendar = s.calendar := by
  unfold deliverOccurrence; dsimp only; split <;> simp
@[simp] theorem deliverOccurrence_events (o : Occurrence) (ts : PerPort Bool) (h : Handle) (s : State) :
    (deliverOccurrence o ts h s).1.events = s.events := by
  unfold deliverOccurrence; dsimp only; split <;> simp
@[simp] theorem deliverOccurrence_outputs (o : Occurrence) (ts : PerPort Bool) (h : Handle) (s : State) :
    (deliverOccurrence o ts h s).1.outputs = s.outputs := by
  unfold deliverOccurrence; dsimp only; split <;> simp
@[simp] theorem deliverOccurrence_ports (o : Occurrence) (ts : PerPort Bool) (h : Handle) (s : State) :
    (deliverOccurrence o ts h s).1.ports = s.ports := by
  unfold deliverOccurrence; dsimp only; split <;> simp
@[simp] theorem deliverOccurrence_resetAsserted (o : Occurrence) (ts : PerPort Bool) (h : Handle) (s : State) :
    (deliverOccurrence o ts h s).1.resetAsserted = s.resetAsserted := by
  unfold deliverOccurrence; dsimp only; split <;> simp
@[simp] theorem deliverOccurrence_departing (o : Occurrence) (ts : PerPort Bool) (h : Handle) (s : State) :
    (deliverOccurrence o ts h s).1.departing = s.departing := by
  unfold deliverOccurrence; dsimp only; split <;> simp
@[simp] theorem deliverOccurrence_draws (o : Occurrence) (ts : PerPort Bool) (h : Handle) (s : State) :
    (deliverOccurrence o ts h s).1.draws = s.draws := by
  unfold deliverOccurrence; dsimp only; split <;> simp
@[simp] theorem deliverOccurrence_pending (o : Occurrence) (ts : PerPort Bool) (h : Handle) (s : State) :
    (deliverOccurrence o ts h s).1.pending = s.pending := by
  unfold deliverOccurrence; dsimp only; split <;> simp
@[simp] theorem deliverOccurrence_store_pool (o : Occurrence) (ts : PerPort Bool) (h : Handle) (s : State) :
    (deliverOccurrence o ts h s).1.store.pool = s.store.pool := by
  unfold deliverOccurrence; dsimp only; split <;> simp
@[simp] theorem deliverOccurrence_store_quota (o : Occurrence) (ts : PerPort Bool) (h : Handle) (s : State) :
    (deliverOccurrence o ts h s).1.store.quota = s.store.quota := by
  unfold deliverOccurrence; dsimp only; split <;> simp

@[simp] theorem applyAction_time (o : OutLine) (a : LineAction) (s : State) :
    (applyAction o a s).time = s.time := rfl
@[simp] theorem applyAction_authority (o : OutLine) (a : LineAction) (s : State) :
    (applyAction o a s).authority = s.authority := rfl
@[simp] theorem applyAction_store (o : OutLine) (a : LineAction) (s : State) :
    (applyAction o a s).store = s.store := rfl
@[simp] theorem applyAction_calendar (o : OutLine) (a : LineAction) (s : State) :
    (applyAction o a s).calendar = s.calendar := rfl
@[simp] theorem applyAction_inboxes (o : OutLine) (a : LineAction) (s : State) :
    (applyAction o a s).inboxes = s.inboxes := rfl
@[simp] theorem applyAction_events (o : OutLine) (a : LineAction) (s : State) :
    (applyAction o a s).events = s.events := rfl
@[simp] theorem applyAction_reports (o : OutLine) (a : LineAction) (s : State) :
    (applyAction o a s).reports = s.reports := rfl
@[simp] theorem applyAction_ports (o : OutLine) (a : LineAction) (s : State) :
    (applyAction o a s).ports = s.ports := rfl
@[simp] theorem applyAction_resetAsserted (o : OutLine) (a : LineAction) (s : State) :
    (applyAction o a s).resetAsserted = s.resetAsserted := rfl
@[simp] theorem applyAction_departing (o : OutLine) (a : LineAction) (s : State) :
    (applyAction o a s).departing = s.departing := rfl
@[simp] theorem applyAction_draws (o : OutLine) (a : LineAction) (s : State) :
    (applyAction o a s).draws = s.draws := rfl
@[simp] theorem applyAction_pending (o : OutLine) (a : LineAction) (s : State) :
    (applyAction o a s).pending = s.pending := rfl

/-! ### What no release touches -/

/-- `t` is `s` but for what a release may change: reports, inboxes, reference counts, entries, outputs. -/
structure Undisturbed (s t : State) : Prop where
  time : t.time = s.time
  authority : t.authority = s.authority
  events : t.events = s.events
  ports : t.ports = s.ports
  resetAsserted : t.resetAsserted = s.resetAsserted
  departing : t.departing = s.departing
  draws : t.draws = s.draws
  pending : t.pending = s.pending
  pool : t.store.pool = s.store.pool
  quota : t.store.quota = s.store.quota
  releaseState : t.calendar.releaseState = s.calendar.releaseState

theorem Undisturbed.refl (s : State) : Undisturbed s s :=
  ⟨rfl, rfl, rfl, rfl, rfl, rfl, rfl, rfl, rfl, rfl, rfl⟩

theorem Undisturbed.trans {a b c : State} (h : Undisturbed a b) (k : Undisturbed b c) : Undisturbed a c := by
  constructor
  · exact k.time.trans h.time
  · exact k.authority.trans h.authority
  · exact k.events.trans h.events
  · exact k.ports.trans h.ports
  · exact k.resetAsserted.trans h.resetAsserted
  · exact k.departing.trans h.departing
  · exact k.draws.trans h.draws
  · exact k.pending.trans h.pending
  · exact k.pool.trans h.pool
  · exact k.quota.trans h.quota
  · exact k.releaseState.trans h.releaseState

theorem undisturbed_foldl {α : Type} {f : State → α → State} (h : ∀ s x, Undisturbed s (f s x))
    (l : List α) (s : State) : Undisturbed s (l.foldl f s) := by
  induction l generalizing s with
  | nil => exact .refl s
  | cons x l ih => exact (h s x).trans (ih (f s x))

theorem reportNow_undisturbed (p : Port) (b : ReportBody) (s : State) : Undisturbed s (reportNow p b s) := by
  constructor <;> simp

theorem dropReference_undisturbed (i : RecordNo) (s : State) : Undisturbed s (dropReference i s) := by
  constructor <;> simp

/-! ### One occurrence (R74) -/

/-- A LINE occurrence whose owner owns the line applies the action, and nothing else (R140). -/
theorem handOn_line_driven {o : Occurrence} {out : OutLine} {s : State} (act : LineAction)
    (h : s.events.outOwner.get out = some o.owner) :
    handOn o (.line out act) s = (applyAction out act s, .line true) := by
  simp [handOn, lineOccurrence, h]

/-- A LINE occurrence whose owner does not own the line changes no output, and LINE_REFUSED carries who
does (R141). -/
theorem handOn_line_refused {o : Occurrence} {out : OutLine} {s : State} (act : LineAction)
    (h : s.events.outOwner.get out ≠ some o.owner) :
    handOn o (.line out act) s =
      (reportNow o.owner
        (.lineRefused o.entry o.number out act o.release o.late (s.events.outOwner.get out)) s,
        .line false) := by
  cases k : s.events.outOwner.get out with
  | none => simp [handOn, lineOccurrence, k]
  | some q =>
    have hq : q ≠ o.owner := fun e => h (by rw [k, e])
    simp [handOn, lineOccurrence, k, hq]

theorem applyAction_undisturbed (out : OutLine) (a : LineAction) (s : State) :
    Undisturbed s (applyAction out a s) := by
  constructor <;> rfl

theorem handOn_undisturbed (o : Occurrence) (a : EntryAction) (s : State) :
    Undisturbed s (handOn o a s).1 := by
  cases a with
  | deliver ts h => constructor <;> simp [handOn]
  | line out act =>
    by_cases h : s.events.outOwner.get out = some o.owner
    · rw [handOn_line_driven act h]; exact applyAction_undisturbed out act s
    · rw [handOn_line_refused act h]; exact reportNow_undisturbed _ _ s

/-- A release hands nothing to the Calendar but the entry's own fate. -/
theorem handOn_calendar (o : Occurrence) (a : EntryAction) (s : State) :
    (handOn o a s).1.calendar = s.calendar := by
  cases a with
  | deliver ts h => simp [handOn]
  | line out act =>
    by_cases h : s.events.outOwner.get out = some o.owner
    · rw [handOn_line_driven act h]; rfl
    · rw [handOn_line_refused act h]; simp

theorem dropEntryReference_undisturbed (e : Entry) (s : State) : Undisturbed s (dropEntryReference e s) := by
  unfold dropEntryReference
  split
  · exact dropReference_undisturbed _ s
  · exact .refl s

theorem calendar_undisturbed (s : State) (c : Calendar) (h : c.releaseState = s.calendar.releaseState) :
    Undisturbed s { s with calendar := c } :=
  ⟨rfl, rfl, rfl, rfl, rfl, rfl, rfl, rfl, rfl, rfl, h⟩

theorem finishEntry_undisturbed (i : RecordNo) (e : Entry) (cause : FinishCause) (s : State) :
    Undisturbed s (finishEntry i e cause s) := by
  have h : Undisturbed s { s with calendar := s.calendar.finish i e cause } := calendar_undisturbed s _ rfl
  exact h.trans (dropEntryReference_undisturbed e _)

/-- A finished entry leaves the armed list, its record FINISHED at the tail of the free-record queue
(R76, R85). -/
theorem finishEntry_calendar (i : RecordNo) (e : Entry) (cause : FinishCause) (s : State) :
    (finishEntry i e cause s).calendar = s.calendar.finish i e cause := by
  unfold finishEntry dropEntryReference
  split <;> simp

theorem settleFate_undisturbed (i : RecordNo) (h : Handle) (e : Entry) (fate : Fate) (s : State) :
    Undisturbed s (settleFate i h e fate s) := by
  cases fate with
  | rearm next => exact calendar_undisturbed s _ rfl
  | finish cause => exact (finishEntry_undisturbed i e cause s).trans (reportNow_undisturbed _ _ _)

theorem reportRelease_undisturbed (e : Entry) (o : Occurrence) (x : ReleaseOutcome) (s : State) :
    Undisturbed s (reportRelease e o x s) := by
  unfold reportRelease
  split
  · exact reportNow_undisturbed _ _ s
  · exact .refl s

/-- One occurrence changes no time, authority, event line, port, input, quota or pool byte. -/
theorem releaseEntry_undisturbed (late : Bool) (s : State) (i : RecordNo) :
    Undisturbed s (releaseEntry late s i) := by
  unfold releaseEntry
  split
  · exact ((handOn_undisturbed _ _ s).trans (reportRelease_undisturbed _ _ _ _)).trans
      (settleFate_undisturbed _ _ _ _ _)
  · exact .refl s

/-! ### All that one event releases -/

theorem foldl_releaseEntry_undisturbed (late : Bool) (l : List RecordNo) (s : State) :
    Undisturbed s (l.foldl (releaseEntry late) s) :=
  undisturbed_foldl (releaseEntry_undisturbed late) l s

theorem releaseDue_undisturbed (late : Bool) (s : State) : Undisturbed s (releaseDue late s) :=
  foldl_releaseEntry_undisturbed late _ s

theorem releaseIfRunning_undisturbed (late : Bool) (s : State) : Undisturbed s (releaseIfRunning late s) := by
  unfold releaseIfRunning
  split
  · exact releaseDue_undisturbed late s
  · exact .refl s

/-- A HELD Calendar keeps its due entries (R80). -/
theorem releaseIfRunning_held {late : Bool} {s : State} (h : ¬ s.running) : releaseIfRunning late s = s :=
  if_neg h

theorem resume_running {s : State} (h : s.running) : resume s = s := by
  have : s.calendar.releaseState = .running := h
  simp [resume, this]

/-- RESUME of a HELD Calendar is RUNNING again, and its due entries are released late (R82). -/
theorem resume_held {s : State} (h : ¬ s.running) :
    resume s = releaseDue true { s with calendar := { s.calendar with releaseState := .running } } := by
  unfold resume
  cases k : s.calendar.releaseState with
  | running => exact absurd k h
  | held => rfl

/-! ### A time change (R10) -/

theorem reportTimeChange_undisturbed (old new : Point) (epoch : Byte) (cause : ChangeCause) (s : State) :
    Undisturbed s (reportTimeChange old new epoch cause s) := by
  apply undisturbed_foldl
  intro s p
  constructor <;> simp

/-- TIME_CHANGED is offered to the queue of each attached port, and to no other (R147). -/
theorem reportTimeChange_get (old new : Point) (epoch : Byte) (cause : ChangeCause) (s : State) (q : Port) :
    (reportTimeChange old new epoch cause s).reports.get q =
      if s.attached q ∧ s.departing ≠ some q then
        (s.reports.get q).offer ⟨epoch, new⟩ (.timeChanged old new epoch cause)
      else s.reports.get q := by
  simp only [reportTimeChange, Port.all, List.foldl]
  cases q <;> simp [report_get]

/-- TIME_CHANGED changes nothing but report queues. -/
theorem reportTimeChange_eq (old new : Point) (epoch : Byte) (cause : ChangeCause) (s : State) :
    reportTimeChange old new epoch cause s =
      { s with reports := (reportTimeChange old new epoch cause s).reports } := by
  unfold reportTimeChange
  induction Port.all generalizing s with
  | nil => rfl
  | cons p l ih =>
    rw [List.foldl_cons, ih, report_eq]

/-- A time change is the new time and epoch, TIME_CHANGED, and the Calendar's answer. -/
theorem changeTime_eq (new : Point) (frac : Nat) (ts : TimeState) (cause : ChangeCause) (s : State) :
    changeTime new frac ts cause s =
      releaseIfRunning true (reportTimeChange s.time.now new (s.time.epoch + 1) cause
        { s with time := { s.time with epoch := s.time.epoch + 1, now := new, frac := frac, timeState := ts } }) :=
  rfl

/-- Common Time after a time change: the new value, and the next epoch (R3, R10). -/
theorem changeTime_time (new : Point) (frac : Nat) (ts : TimeState) (cause : ChangeCause) (s : State) :
    (changeTime new frac ts cause s).time =
      { s.time with epoch := s.time.epoch + 1, now := new, frac := frac, timeState := ts } := by
  rw [changeTime_eq, (releaseIfRunning_undisturbed _ _).time, (reportTimeChange_undisturbed _ _ _ _ _).time]

end Sys2Proof.Machine
end

