-- ==== Sys2Proof/Laws/Operations.lean ====
section
/-! SUPPORT. The shared operations of the blocks, each with what it can do said once: ordered checks,
handles, references, inboxes flushed, the armed list, ends in local elapsed time, and what the authority's
loss goes through. -/

namespace Sys2Proof.Machine

/-! ### Ordered checks and handles -/

@[simp] theorem firstFailing_nil : firstFailing [] = none := rfl

/-- An ordered table refuses with its first row that holds. -/
theorem firstFailing_cons (b : Bool) (r : Result) (rest : List (Bool × Result)) :
    firstFailing ((b, r) :: rest) = if b then some r else firstFailing rest := by
  cases b <;> rfl

/-- The table passes exactly when no row holds. -/
theorem firstFailing_eq_none {checks : List (Bool × Result)} :
    firstFailing checks = none ↔ ∀ x ∈ checks, x.1 = false := by
  simp [firstFailing]

theorem recordOf_eq_some {b : Byte} {i : RecordNo} : recordOf b = some i ↔ b.toNat = i.val := by
  unfold recordOf
  split
  · simp [Fin.ext_iff]
  · have := i.isLt
    simp only [reduceCtorEq, false_iff]
    omega

theorem recordOf_eq_none {b : Byte} : recordOf b = none ↔ 128 ≤ b.toNat := by
  unfold recordOf
  split
  · simp only [reduceCtorEq, false_iff]; omega
  · simp only [true_iff]; omega

/-- A handle stands at an offset: record number in range, then generation. -/
theorem handleField_eq_some {ps : List Byte} {offset : Nat} {h : Handle} :
    handleField ps offset = some h ↔
      (byteField ps offset).toNat = h.record.val ∧ byteField ps (offset + 1) = h.gen := by
  obtain ⟨record, gen⟩ := h
  simp only [handleField, Option.map_eq_some_iff, recordOf_eq_some]
  constructor
  · rintro ⟨r, hr, e⟩; cases e; exact ⟨hr, rfl⟩
  · rintro ⟨hr, rfl⟩; exact ⟨_, hr, rfl⟩

theorem handleField_eq_none {ps : List Byte} {offset : Nat} :
    handleField ps offset = none ↔ 128 ≤ (byteField ps offset).toNat := by
  simp [handleField, recordOf_eq_none]

/-- The message a handle names: its record of that generation, a DRAFT or SEALED (R43). -/
theorem Store.named_eq_some {st : Store} {h : Handle} {m : Message} :
    st.named h = some m ↔ st.records[h.record].gen = h.gen ∧
      (st.records[h.record].content = .draft m ∨ ∃ n, st.records[h.record].content = .sealed m n) := by
  unfold Store.named MessageState.message?
  split
  · rename_i hg
    split <;> simp_all
  · simp_all

/-- The entry a handle names: its record of that generation, ARMED or FINISHED (R65). -/
theorem Calendar.named_eq_some {c : Calendar} {h : Handle} {e : Entry} :
    c.named h = some e ↔ c.records[h.record].gen = h.gen ∧
      (c.records[h.record].content = .armed e ∨ ∃ why, c.records[h.record].content = .finished e why) := by
  unfold Calendar.named EntryState.entry?
  split
  · rename_i hg
    split <;> simp_all
  · simp_all

/-! ### References (R50 to R52) -/

theorem Store.takeReference_draft {st : Store} {i : RecordNo} {m : Message}
    (h : st.records[i].content = .draft m) : st.takeReference i = st.putContent i (.sealed m 1) := by
  unfold Store.takeReference; rw [h]

theorem Store.takeReference_sealed {st : Store} {i : RecordNo} {m : Message} {n : Nat}
    (h : st.records[i].content = .sealed m n) : st.takeReference i = st.putContent i (.sealed m (n + 1)) := by
  unfold Store.takeReference; rw [h]

theorem Store.dropReference_last {st : Store} {i : RecordNo} {m : Message} {n : Nat}
    (h : st.records[i].content = .sealed m n) (hn : n ≤ 1) : st.dropReference i = st.release i m := by
  unfold Store.dropReference; rw [h]; exact if_pos hn

theorem Store.dropReference_more {st : Store} {i : RecordNo} {m : Message} {n : Nat}
    (h : st.records[i].content = .sealed m n) (hn : 2 ≤ n) :
    st.dropReference i = st.putContent i (.sealed m (n - 1)) := by
  unfold Store.dropReference; rw [h]; exact if_neg (by omega)

/-! ### A flushed inbox (R103, R108) -/

/-- The records removed one by one, whole: each reference dropped, oldest first, and no record left. -/
theorem removeHeads_all (p : Port) : ∀ (k : Nat) (s : State), (s.inboxes.get p).records.length = k →
    removeHeads p k s = { s with
      store := (s.inboxes.get p).records.foldl (fun st d => st.dropReference d.message.record) s.store
      inboxes := s.inboxes.put p { s.inboxes.get p with records := [] } }
  | 0, s, h => by
    have h0 := List.length_eq_zero_iff.1 h
    have : ({ s.inboxes.get p with records := [] } : Inbox) = s.inboxes.get p := by rw [← h0]
    rw [this, h0, PerPort.put_get]; rfl
  | k + 1, s, h => by
    cases hr : (s.inboxes.get p).records with
    | nil => rw [hr] at h; simp at h
    | cons d rest =>
      have e : removeHead p s =
          dropReference d.message.record (s.putInbox p { s.inboxes.get p with records := rest }) := by
        unfold removeHead; rw [hr]
      rw [hr] at h
      show removeHeads p k (removeHead p s) = _
      rw [e, removeHeads_all p k _ (by simpa using h)]
      simp [dropReference, State.putInbox]

theorem flush_eq (p : Port) (s : State) : flush p s = { s with
    store := (s.inboxes.get p).records.foldl (fun st d => st.dropReference d.message.record) s.store
    inboxes := s.inboxes.put p { s.inboxes.get p with records := [] } } :=
  removeHeads_all p _ s rfl

/-! ### The armed list (R67, R68) -/

/-- An entry joins behind all that have its release time or an earlier one. -/
theorem Calendar.insertArmed_eq (c : Calendar) (i : RecordNo) (r : Point) (armed : List RecordNo) :
    c.insertArmed i r armed =
      armed.takeWhile (fun j => decide ((c.releaseOf j).atOrBefore r)) ++ i ::
        armed.dropWhile (fun j => decide ((c.releaseOf j).atOrBefore r)) := by
  induction armed with
  | nil => rfl
  | cons j rest ih =>
    by_cases h : (c.releaseOf j).atOrBefore r
    · simp only [Calendar.insertArmed, if_pos h, ih, List.takeWhile_cons, List.dropWhile_cons,
        decide_eq_true h, if_true, List.cons_append]
    · simp only [Calendar.insertArmed, if_neg h, List.takeWhile_cons, List.dropWhile_cons,
        decide_eq_false h, Bool.false_eq_true, if_false, List.nil_append]

/-- Joining reads nothing but the release times of the list. -/
theorem Calendar.insertArmed_congr {c c' : Calendar} {i : RecordNo} {r : Point} {armed : List RecordNo}
    (h : ∀ j ∈ armed, c'.releaseOf j = c.releaseOf j) : c'.insertArmed i r armed = c.insertArmed i r armed := by
  induction armed with
  | nil => rfl
  | cons j rest ih =>
    simp only [Calendar.insertArmed]
    rw [h j (List.mem_cons_self ..), ih fun k hk => h k (List.mem_cons_of_mem _ hk)]

/-- Joining adds one entry and loses none. -/
theorem Calendar.mem_insertArmed {c : Calendar} {i j : RecordNo} {r : Point} {armed : List RecordNo} :
    j ∈ c.insertArmed i r armed ↔ j = i ∨ j ∈ armed := by
  induction armed with
  | nil => simp [Calendar.insertArmed]
  | cons k rest ih =>
    unfold Calendar.insertArmed
    split
    · rw [List.mem_cons, ih, List.mem_cons]; exact or_left_comm
    · simp

/-! ### Ends in local elapsed time (R8) -/

/-- The distance to an end stays within one round of the counter. -/
theorem distance_lt (now stop : Nat) : distance now stop < elapsedModulus :=
  Nat.mod_lt _ (by decide)

/-- An end that lies `us` ahead is that far ahead. -/
theorem distance_endAfter {now us : Nat} (hn : now < elapsedModulus) (hu : us < elapsedModulus) :
    distance now (endAfter now us) = us := by
  unfold distance endAfter
  generalize elapsedModulus = m at *
  by_cases h : now + us < m
  · rw [Nat.mod_eq_of_lt h, show now + us + m - now = us + m by omega, Nat.add_mod_right,
      Nat.mod_eq_of_lt hu]
  · rw [show now + us = now + us - m + m by omega, Nat.add_mod_right,
      Nat.mod_eq_of_lt (show now + us - m < m by omega),
      show now + us - m + m - now = us by omega, Nat.mod_eq_of_lt hu]

theorem endSlew_none {s : State} (cause : SlewCause) (h : s.time.slew = none) : endSlew cause s = s := by
  unfold endSlew; rw [h]

theorem endSlew_some {s : State} {x : Slew} (cause : SlewCause) (h : s.time.slew = some x) :
    endSlew cause s = reportHolder (.slewDone cause x.rate (x.remaining s.time.elapsed))
      { s with time := { s.time with slew := none } } := by
  unfold endSlew; rw [h]

theorem slewEnd_of_not_reached {s : State} (h : ∀ x ∈ s.time.slew, distance s.time.elapsed x.stop ≠ 0) :
    slewEnd s = s := by
  unfold slewEnd
  split
  · rename_i x hx; exact if_neg (h x hx)
  · rfl

theorem pulseEnd_of_not_reached {s : State} {o : OutLine}
    (h : ∀ pl ∈ (s.outputs.get o).pulse, distance s.time.elapsed pl.stop ≠ 0) : pulseEnd o s = s := by
  unfold pulseEnd
  split
  · rename_i pl hp; exact if_neg (h pl hp)
  · rfl

/-- The end of a pulse, whole: the stage of the line with its pulse ended where the end is reached. -/
theorem pulseEnd_eq (o : OutLine) (s : State) : pulseEnd o s = { s with
    outputs := s.outputs.put o (match (s.outputs.get o).pulse with
      | some pl => if distance s.time.elapsed pl.stop = 0 then ⟨pl.returnLevel, none⟩ else s.outputs.get o
      | none => s.outputs.get o) } := by
  cases hp : (s.outputs.get o).pulse with
  | none => simp only [pulseEnd, hp, PerOut.put_get]
  | some pl =>
    by_cases hd : distance s.time.elapsed pl.stop = 0
    · simp only [pulseEnd, hp, reached, if_pos hd]; rfl
    · simp only [pulseEnd, hp, reached, if_neg hd, PerOut.put_get]

theorem leaseDue_iff {s : State} :
    s.leaseDue = true ↔ ∃ h, s.authority.holder = some h ∧ distance s.time.elapsed h.expiry = 0 := by
  simp only [State.leaseDue, Option.any_eq_true, decide_eq_true_eq]

theorem leaseExpiry_of_not_reached {s : State}
    (h : ∀ x ∈ s.authority.holder, distance s.time.elapsed x.expiry ≠ 0) : leaseExpiry s = s := by
  unfold leaseExpiry
  split
  · rename_i x hx; exact if_neg (h x hx)
  · rfl

/-! ### The align arming and the authority's loss (R33, R127) -/

theorem cancelArming_none {s : State} (cause : CancelCause) (h : s.events.arming = none) :
    cancelArming cause s = s := by
  unfold cancelArming; rw [h]

theorem cancelArming_some {s : State} {a : Arming} (cause : CancelCause) (h : s.events.arming = some a) :
    cancelArming cause s =
      reportNow a.port (.alignResult a.mode a.line a.target (.cancelled cause)) (s.putArming none) := by
  unfold cancelArming; rw [h]

/-- After the cancellation no align is armed; claims, captures and levels stand. -/
theorem cancelArming_events (cause : CancelCause) (s : State) :
    (cancelArming cause s).events = { s.events with arming := none } := by
  cases h : s.events.arming with
  | none => rw [cancelArming_none cause h, ← h]
  | some a => rw [cancelArming_some cause h, reportNow_events]; rfl

theorem handover_vacant {s : State} (former : Port) (cause : LossCause) (h : s.authority.waiters = []) :
    handover former cause s = s := by
  unfold handover; rw [h]

/-- The oldest waiter becomes holder, its lease counted from the present (R34). -/
theorem handover_authority {s : State} {w : Waiter} {rest : List Waiter} (former : Port) (cause : LossCause)
    (h : s.authority.waiters = w :: rest) :
    (handover former cause s).authority =
      ⟨some ⟨w.port, w.lease, leaseExpiryFrom s.time.elapsed w.lease⟩, rest⟩ := by
  unfold handover; rw [h]; simp [grant]

end Sys2Proof.Machine
end

