-- ==== Sys2Proof/Laws/Serial.lean ====
section
/-! SUPPORT. What the serial side of a port can do, said once: a byte's bits are taken whole, fewer than
eight bits leave no byte, and as many bits are sent as are clocked. -/

namespace Sys2Proof.Machine

@[simp] theorem bitsOf_length (b : Byte) : (bitsOf b).length = 8 := rfl

/-- Eight bits that spell a byte are shifted in as that byte, and the next bit begins another. -/
theorem shiftIn_bitsOf (b : Byte) (rest : List Bool) :
    shiftIn (bitsOf b ++ rest) 0 0 = b :: shiftIn rest 0 0 := by
  revert b
  have h : ∀ b : Byte, BitVec.ofNat 8 ((bitsOf b).foldl (fun v bit => 2 * v + bit.toNat) 0) = b := by
    decide +kernel
  intro b
  exact congrArg (· :: shiftIn rest 0 0) (h b)

/-- Bits that do not fill the byte under way are discarded. -/
theorem shiftIn_of_lt : ∀ (bits : List Bool) (count value : Nat), count + bits.length < 8 →
    shiftIn bits count value = []
  | [], _, _, _ => rfl
  | bit :: rest, count, value, h => by
    have : count ≠ 7 := by simp only [List.length_cons] at h; omega
    simp only [shiftIn, if_neg this]
    exact shiftIn_of_lt rest _ _ (by simp only [List.length_cons] at h; omega)

@[simp] theorem clockedOut_length (bytes : List Byte) (clocks : Nat) :
    (clockedOut bytes clocks).length = clocks := by
  simp only [clockedOut, List.length_take, List.length_append, List.length_replicate]
  omega

@[simp] theorem clockedOut_nil (clocks : Nat) : clockedOut [] clocks = List.replicate clocks true := by
  simp [clockedOut]

end Sys2Proof.Machine
end

