-- ==== Sys2Proof/Tests/Slice0.lean ====
section
/-! SUPPORT. Tests: the checks of WellFormed, one step of each command on a small state with the values
the manual's examples and tables give, and for each statement with hypotheses a witness that meets them,
clause by clause, at the boundaries. -/

namespace Sys2Proof.Tests

set_option Elab.async false

open Machine Claims

/-! ### Small states -/

/-- A port whose session is running. -/
def attachedPort (number : Byte) : HostPort :=
  { HostPort.reset false with session := .attached, sessionNumber := number }

/-- Four attached ports, P0 the holder with expiry 6,000,000 µs, P3 waiting, time SET at epoch 9,
1 s 200,000,000 ns with fraction 123, local elapsed time 5,000,000 µs. -/
def live : State :=
  { State.reset with
    resetAsserted := false
    time := { TimeBase.reset with
      epoch := 9, now := ⟨1, 200000000⟩, frac := 123, timeState := .set, elapsed := 5000000, periods := 7 }
    authority := ⟨some ⟨.p0, 1000, 6000000⟩, [⟨.p3, 2000⟩]⟩
    ports := ⟨attachedPort 4, attachedPort 1, attachedPort 1, attachedPort 2⟩ }

/-- `s` with a command of a row PENDING at a port. -/
def pend (row : CommandRow) (p : Port) (ps : List Byte) (s : State) : State :=
  s.putSlot p (.pending ⟨row.code, 0x21, ps⟩ false false)

/-- The result and the payload that a port's slot holds after a step. -/
def answerOf (p : Port) : Host.Outcome State Fault Refusal → Option (Result × List Byte)
  | .next t =>
    match (t.ports.get p).slot with
    | .ready r => some (r.result, r.payload)
    | _ => none
  | _ => none

/-- What one value of the state after a step is. -/
def after {α : Type} (f : State → α) : Host.Outcome State Fault Refusal → Option α
  | .next t => some (f t)
  | _ => none

/-- A command that meets the hypotheses of `Executes`, with no tick of local elapsed time outstanding,
and its answer. -/
abbrev Gives (i : Instr) (row : CommandRow) (p : Port) (ps : List Byte) (s : State) (r : Result)
    (payload : List Byte) : Prop :=
  Executes row p ⟨row.code, 0x21, ps⟩ false false (pend row p ps s) ∧ (pend row p ps s).time.periods < 100 ∧
    answerOf p (exec i (pend row p ps s)) = some (r, payload)

/-- `s` with a time base changed. -/
def withTime (f : TimeBase → TimeBase) (s : State) : State := { s with time := f s.time }

/-- `s` with a message record. -/
def withMessage (i : RecordNo) (gen : Byte) (c : MessageState) (s : State) : State :=
  { s with store := { s.store with records := s.store.records.set i ⟨gen, c⟩ } }

/-- `s` with an entry record ARMED and alone in the armed list. -/
def withArmed (i : RecordNo) (gen : Byte) (e : Entry) (s : State) : State :=
  { s with calendar := { s.calendar with
    records := s.calendar.records.set i ⟨gen, .armed e⟩
    armed := [i], freeRecords := s.calendar.freeRecords.erase i } }

/-- `s` with an entry record FINISHED. -/
def withFinished (i : RecordNo) (gen : Byte) (e : Entry) (why : FinishCause) (s : State) : State :=
  { s with calendar := { s.calendar with records := s.calendar.records.set i ⟨gen, .finished e why⟩ } }

/-- `s` with an event line. -/
def withLine (l : EvLine) (x : EventLine) (s : State) : State := s.putLine l x

/-- The bits of bytes, each most significant bit first. -/
def bits (bytes : List Byte) : List Bool := bytes.flatMap bitsMostSignificantFirst

/-- A transaction of whole bytes. -/
def ofBytes (bytes : List Byte) : Transaction := ⟨bits bytes, false, false⟩

/-! ### WellFormed refuses what belongs to the other row -/

theorem test_wellFormed_refuses_response_read_as_command_write :
    Instr.wellFormed (.commandWrite .p0 (ofBytes [0x3C, 0])) = false := by decide +kernel

theorem test_wellFormed_refuses_command_write_as_response_read :
    Instr.wellFormed (.responseRead .p0 (ofBytes [0xC3, 2])) = false ∧
      Instr.wellFormed (.responseRead .p0 (ofBytes [])) = false ∧
      Instr.wellFormed (.responseRead .p0 (ofBytes [0x3C])) = true := by decide +kernel

/-! ### Frames (R173, R174, R159) -/

/-- The check value that R174 gives: the ASCII digits 1 to 9 have the CRC $29B1. -/
theorem test_crc_check_value :
    crc [0x31, 0x32, 0x33, 0x34, 0x35, 0x36, 0x37, 0x38, 0x39] = 0x29B1 := by decide +kernel

/-- Table 10-6 assigns 38 codes, each once. -/
theorem test_command_codes_distinct :
    (commandTable.map (·.code)).Nodup ∧ commandTable.length = 38 := by decide +kernel

/-- R158: $C3 written out bit by bit, first bit first; seven bits more are discarded, an eighth is not. -/
theorem test_bits_most_significant_first :
    Transaction.bytes ⟨[true, true, false, false, false, false, true, true], false, false⟩ = [0xC3] ∧
      Transaction.bytes ⟨[false, false, true, true, true, true, false, false, true], false, false⟩ = [0x3C] ∧
      clockedOut [0x5A] 10 = [false, true, false, true, true, false, true, false, true, true] ∧
      clockedOut [0x5A] 3 = [false, true, false] := by decide +kernel

theorem witness_NumbersMostSignificantFirst :
    (List.replicate 7 true).length < 8 ∧
      Transaction.bytes ⟨bits [0xC3, 0x02] ++ List.replicate 7 true, false, false⟩ = [0xC3, 0x02] ∧
      Transaction.bytes ⟨bits [0xC3, 0x02], false, false⟩ = [0xC3, 0x02] ∧
      Transaction.bytes ⟨List.replicate 7 false, false, false⟩ = [] ∧
      (517 : Nat) < 256 ^ 2 ∧ be 2 517 = [0x02, 0x05] ∧ (65535 : Nat) < 256 ^ 2 ∧
      field ([7] ++ be 2 65535 ++ [9]) 1 2 = 65535 ∧
      rateField ([7] ++ rateBytes (-2147483648) ++ [9]) 1 = -2147483648 ∧
      rateField ([7] ++ rateBytes 2147483647 ++ [9]) 1 = 2147483647 := by decide +kernel

theorem witness_CommandFrameJudged :
    judgeFrame (frameOf ⟨0x01, 11, []⟩ ++ [0xAA]) = some ⟨0x01, 11, []⟩ ∧
      judgeFrame (frameOf ⟨0x21, 11, List.replicate 43 5⟩) = some ⟨0x21, 11, List.replicate 43 5⟩ ∧
      3 < (frameOf ⟨0x01, 11, []⟩).length ∧ judgeFrame ((frameOf ⟨0x01, 11, []⟩).take 4) = none ∧
      judgeFrame (1 :: List.replicate 40 0) = none ∧ judgeFrame (46 :: List.replicate 60 0) = none ∧
      [(2 : Byte), 0x01, 11].length = (([(2 : Byte), 0x01, 11].headD 0).toNat) + 1 ∧
      judgeFrame ([2, 0x01, 11] ++ [0, 0]) = none := by decide +kernel

/-! ### The slot (R158 to R164, Section 9.7) -/

/-- READ_TIME with host tag 11 in a well-formed frame, and with a bad CRC. -/
def readTimeFrame : List Byte := frameOf ⟨0x01, 11, []⟩
def badFrame : List Byte := [2, 0x01, 12, 0, 0]

/-- The response to a READ_TIME of nobody's: 7 bytes from its length byte through its CRC. -/
def shortResponse : Response :=
  { result := .ok, tag := 11, session := 4, dropped := true, overwrote := false, reports := false,
    inbox := false, payload := [] }

def slotAfter (p : Port) (frame : List Byte) (s : State) : Option Slot :=
  after (fun t => (t.ports.get p).slot) (exec (.commandWrite p (ofBytes (0xC3 :: frame))) s)

def pendingAt (p : Port) (s : State) : State := s.putSlot p (.pending ⟨0x01, 11, []⟩ false false)
def readyAt (p : Port) (s : State) : State := s.putSlot p (.ready shortResponse)

/-- The rows of 9.7.1: frames at an EMPTY, a PENDING and a READY slot, well-formed and bad; a frame with
three bits behind it, and one that its last bit is missing from. -/
theorem witness_CommandWriteAtSlot :
    live.resetAsserted = false ∧ (live.ports.get .p1).resetAsserted = false ∧
      slotAfter .p1 readTimeFrame live = some (.pending ⟨0x01, 11, []⟩ false false) ∧
      slotAfter .p1 readTimeFrame (pendingAt .p1 live) = some (.pending ⟨0x01, 11, []⟩ true false) ∧
      slotAfter .p1 badFrame (pendingAt .p1 live) = some (.pending ⟨0x01, 11, []⟩ true false) ∧
      slotAfter .p1 readTimeFrame (readyAt .p1 live) = some (.pending ⟨0x01, 11, []⟩ false true) ∧
      judgeFrame badFrame = none ∧
      slotAfter .p1 badFrame live = some (.ready ⟨.badFrame, 0, 1, false, false, false, false, []⟩) ∧
      slotAfter .p1 badFrame (readyAt .p1 live) =
        some (.ready ⟨.badFrame, 0, 1, false, true, false, false, []⟩) ∧
      (ofBytes (0xC3 :: readTimeFrame)).fellBeforeNegation = false ∧
      (ofBytes (0xC3 :: readTimeFrame)).bytes = 0xC3 :: readTimeFrame ∧
      after (fun t => (t.ports.p1.slot, t.ports.p1.sdo))
        (exec (.commandWrite .p1 ⟨bits (0xC3 :: readTimeFrame) ++ [true, false, true], false, false⟩) live) =
          some (.pending ⟨0x01, 11, []⟩ false false, List.replicate 51 true) ∧
      after (fun t => t.ports.p1.slot)
        (exec (.commandWrite .p1 ⟨(bits (0xC3 :: readTimeFrame)).take 47, false, false⟩) live) =
          some (.ready ⟨.badFrame, 0, 1, false, false, false, false, []⟩) := by
  and_intros <;> decide +kernel

/-- 9.7.1: a transaction beginning $A5 is ignored; and the other cases of a transaction not taken. -/
theorem witness_OtherTransactionsIgnored :
    ((ofBytes [0xA5, 1]).bytes.head? ≠ some 0xC3 ∧ (ofBytes [0xA5, 1]).bytes.head? ≠ some 0x3C) ∧
      after (fun t => (t.ports.p1.slot, t.ports.p1.sdo)) (exec (.commandWrite .p1 (ofBytes [0xA5, 1])) live) =
        some (.empty, bits [0xFF, 0xFF]) ∧
      after (fun t => (t.ports.p1.slot, t.ports.p1.sdo))
        (exec (.commandWrite .p1 ⟨bits (0xC3 :: readTimeFrame), true, false⟩) live) =
          some (.empty, bits (List.replicate 6 0xFF)) ∧
      after (fun t => (t.ports.p1.slot, t.ports.p1.sdo))
        (exec (.responseRead .p1 (ofBytes [0x3C, 0])) State.reset) = some (.empty, []) ∧
      Transaction.bytes ⟨List.replicate 7 true, false, false⟩ = [] ∧
      after (fun t => (t.ports.p1.slot, t.ports.p1.sdo))
        (exec (.commandWrite .p1 ⟨List.replicate 7 true, false, false⟩) live) =
          some (.empty, List.replicate 7 true) := by
  and_intros <;> decide +kernel

/-- A response read in which so many bits are clocked behind the type byte. -/
def readAfter (within : Bool) (p : Port) (clocks : Nat) (s : State) : Option (Slot × List Bool) :=
  after (fun t => ((t.ports.get p).slot, (t.ports.get p).sdo))
    (exec (.responseRead p ⟨bits [0x3C] ++ List.replicate clocks false, false, within⟩) s)

/-- 9.7.1: a read cut short, by one bit too, leaves the response, the whole frame clocked empties the slot;
and a read within which the command was executed. -/
theorem witness_ResponseReadSendsSlot :
    live.resetAsserted = false ∧ (live.ports.get .p1).resetAsserted = false ∧
      Transaction.bytes ⟨bits [0x3C] ++ List.replicate 15 false, false, false⟩ = [0x3C, 0] ∧
      readAfter false .p1 8 live = some (.empty, bits [0xFF, 0xFF]) ∧
      readAfter false .p1 16 (pendingAt .p1 live) =
        some (.pending ⟨0x01, 11, []⟩ false false, bits [0xFF, 0x00, 0xFF]) ∧
      shortResponse.frame.length = 7 ∧
      readAfter false .p1 56 (readyAt .p1 live) =
        some (.ready shortResponse, bits (0xFF :: 0x5A :: shortResponse.frame.take 6)) ∧
      readAfter false .p1 63 (readyAt .p1 live) =
        some (.ready shortResponse, (bits (0xFF :: 0x5A :: shortResponse.frame)).take 71) ∧
      readAfter false .p1 64 (readyAt .p1 live) =
        some (.empty, bits (0xFF :: 0x5A :: shortResponse.frame)) ∧
      readAfter true .p1 64 (readyAt .p1 live) =
        some (.ready shortResponse, bits (0xFF :: 0x00 :: List.replicate 7 0xFF)) ∧
      shortResponse.frame.take 5 = [4, 0x00, 11, 4, 0x01] := by
  and_intros <;> decide +kernel

/-- 9.7.3: code $EE, and the codes beside the assigned ones, at a detached port. -/
theorem witness_UnassignedCodeIsUnknown :
    ∀ code ∈ [(0xEE : Byte), 0x00, 0x07, 0x59, 0x73],
      Pends .p3 ⟨code, 0x21, []⟩ false false (State.reset.putSlot .p3 (.pending ⟨code, 0x21, []⟩ false false)) ∧
        answerOf .p3 (exec (.unknownCommand .p3)
          (State.reset.putSlot .p3 (.pending ⟨code, 0x21, []⟩ false false))) = some (.unknownCommand, []) := by
  decide +kernel

/-- The three checks in their order: a detached port, a port that is not the holder, a short block. -/
theorem witness_ChecksBeforeOwnRule :
    rowOf (.setRate .p1) = some (.p1, Row.setRate) ∧
      ¬ State.reset.attached .p1 ∧
      answerOf .p1 (exec (.setRate .p1) (pend Row.setRate .p1 [] State.reset)) = some (.notAttached, []) ∧
      live.attached .p1 ∧ ¬ live.isHolder .p1 ∧
      answerOf .p1 (exec (.setRate .p1) (pend Row.setRate .p1 [] live)) = some (.notAuthority, []) ∧
      live.isHolder .p0 ∧ [(0 : Byte), 0, 0].length < Row.setRate.length ∧
      answerOf .p0 (exec (.setRate .p0) (pend Row.setRate .p0 [0, 0, 0] live)) = some (.badParam, []) := by
  and_intros <;> decide +kernel

theorem witness_NoPendingCommandNoEvent :
    (live.ports.get .p0).slot = .empty ∧ after id (exec (.readTime .p0) live) = some live ∧
      Pends .p0 ⟨0x04, 0x21, []⟩ false false (pend Row.setRate .p0 [] live) ∧
      Row.setRate.code ≠ Row.readTime.code ∧
      after id (exec (.readTime .p0) (pend Row.setRate .p0 [] live)) = some (pend Row.setRate .p0 [] live) := by
  and_intros <;> decide +kernel

/-- A tick outstanding after the hundredth REFCLK period. -/
def ticking : State := withTime (fun t => { t with periods := 100 }) live

theorem witness_OutstandingTickTakenFirst :
    ticking.time.periods ≤ 100 ∧ live.time.periods < 100 ∧
      rowOf (.readTime .p1) = some (.p1, Row.readTime) ∧
      Pends .p1 ⟨0x01, 0x21, []⟩ false false (pend Row.readTime .p1 [] ticking) ∧
      ticking.resetAsserted = false ∧ Level.high ≠ (ticking.events.lines.get .ev0).level ∧
      after (fun t => (t.time.elapsed, t.time.periods)) (exec .slewEnd ticking) = some (5000001, 0) ∧
      after (fun t => (t.time.elapsed, t.time.periods)) (exec .refclkAdvance ticking) = some (5000001, 1) ∧
      after (fun t => (t.time.elapsed, t.time.periods)) (exec (.edgeRecognized .ev0 .high 30) ticking) =
        some (5000001, 0) := by
  and_intros <;> decide +kernel

theorem witness_RefusedCommandsChangeNothing :
    rowOf (.takeReport .p1) = some (.p1, Row.takeReport) ∧
      Gives (.takeReport .p1) Row.takeReport .p1 [] live .empty [] ∧
      0x10 ≤ Result.empty.code.toNat ∧ 0x10 ≤ Result.badFrame.code.toNat := by
  and_intros <;> decide +kernel

/-! ### Sessions and resets (9.7.3, 11.1) -/

/-- 9.7.3: ATTACH of a port with session number 2, then ATTACH again; the number after 255 is 0. -/
theorem witness_AttachBeginsSession :
    (let s := { live with ports := { live.ports with p3 := { HostPort.reset false with sessionNumber := 2 } } }
     Gives (.attach .p3) Row.attach .p3 [] s .ok [3, 0, 0]) ∧
      (let s := { live with ports := { live.ports with p3 := { HostPort.reset false with sessionNumber := 255 } } }
       Gives (.attach .p3) Row.attach .p3 [] s .ok [0, 0, 0]) ∧
      Gives (.attach .p3) Row.attach .p3 [] live .alreadyAttached [] := by
  and_intros <;> decide +kernel

/-- An entry of P0 that delivers message (22, 7) to P1 at 2 s 0 ns. -/
def p0Entry : Entry :=
  { owner := .p0, action := .deliver ⟨false, true, false, false⟩ ⟨22, 7⟩, release := ⟨2, 0⟩, sequence := 7,
    period := none, remaining := none, occurrences := 3, missed := 1, notify := true, keep := false,
    strict := false }

/-- P0, the holder with P3 waiting, with something in every block: entry 64 of it without KEEP delivers
message 22, entry 65 has KEEP; drafts in records 0 and 3; EV1 with an align armed on it; OUT1 HIGH in a
pulse; one inbox record on message 40. It holds the releases, and entry 66 of P2 is due. -/
def leaving : State :=
  let kept : Entry := { p0Entry with action := .line .out1 .turnOn, keep := true }
  let due : Entry := { p0Entry with owner := .p2, action := .line .out2 .turnOn, release := ⟨1, 200000000⟩ }
  let s := withMessage 0 1 (.draft ⟨.p0, 0, 33, [9, 5]⟩) (withMessage 3 2 (.draft ⟨.p0, 0, 1, [7]⟩)
    (withMessage 22 7 (.sealed ⟨.p0, 0, 0, []⟩ 1) (withMessage 40 2 (.sealed ⟨.p1, 0, 0, []⟩ 1) live)))
  { s with
    calendar := { s.calendar with
      records := ((s.calendar.records.set 64 ⟨9, .armed p0Entry⟩).set 65 ⟨1, .armed kept⟩).set 66 ⟨4, .armed due⟩
      armed := [66, 64, 65]
      freeRecords := (List.finRange 128).filter fun i => i ∉ [(64 : RecordNo), 65, 66]
      releaseState := .held }
    store := { s.store with freeBlocks := [11], freeRecords := [100], charge := ⟨3, 0, 0, 0⟩ }
    inboxes := { s.inboxes with p0 := ⟨[⟨⟨40, 2⟩, .p1, 0, 0, ⟨9, 1⟩, 1, 0, ⟨1, 0⟩, ⟨9, ⟨1, 0⟩⟩, false⟩],
      .closed, false⟩ }
    outputs := { s.outputs with out1 := ⟨.high, some ⟨5000900, .low⟩⟩ }
    events := { s.events with
      lines := { s.events.lines with ev1 := { EventLine.unclaimed .high with owner := some .p0, compensation := 7 } }
      outOwner := ⟨none, some .p0, some .p2, none⟩
      arming := some ⟨.step, .ev1, ⟨500, 0⟩, 0, .p0⟩ } }

/-- What the end of P0's session comes to: R89, R37 with R83, R61, R129 with R133, R108, R156. -/
abbrev leftBy (t : State) : Prop :=
  t.calendar.armed = [65] ∧ t.calendar.records[(64 : RecordNo)] = ⟨9, .finished p0Entry .ownerDetached⟩ ∧
    t.calendar.records[(65 : RecordNo)] = leaving.calendar.records[(65 : RecordNo)] ∧
    t.calendar.freeRecords.drop 125 = [64, 66] ∧ t.calendar.releaseState = .running ∧
    t.authority = ⟨some ⟨.p3, 2000, 7000000⟩, []⟩ ∧ t.events.arming = none ∧
    t.store.freeBlocks = [11, 9, 5, 7] ∧ t.store.freeRecords = [100, 22, 0, 3, 40] ∧ t.store.charge.p0 = 0 ∧
    t.events.lines.ev1 = .unclaimed .high ∧ t.events.outOwner = ⟨none, none, some .p2, none⟩ ∧
    t.outputs.out1 = ⟨.low, none⟩ ∧ t.outputs.out2 = ⟨.high, none⟩ ∧ t.inboxes.p0 = .reset ∧
    t.reports.p0.reports = [] ∧
    t.reports.p2.reports.map (·.body) =
      [.entryReleased ⟨66, 4⟩ 4 ⟨1, 200000000⟩ 0 true (.line true), .entryFinished ⟨66, 4⟩ .completed 4 1] ∧
    t.reports.p3.reports.map (·.body) = [.authorityGranted .p0 .detached 2000 7000000] ∧
    t.ports.p0.session = .detached ∧ t.ports.p0.sessionNumber = 4

/-- The holder with something in every block, and the waiter, which leaves the queue. -/
theorem witness_DetachEndsSession :
    Gives (.detach .p0) Row.detach .p0 [] leaving .ok [] ∧ SessionsSound (pend Row.detach .p0 [] leaving) ∧
      after (fun t => decide (leftBy t)) (exec (.detach .p0) (pend Row.detach .p0 [] leaving)) = some true ∧
      SessionsSound (pend Row.detach .p3 [] live) ∧ Gives (.detach .p3) Row.detach .p3 [] live .ok [] ∧
      after (fun t => t.authority) (exec (.detach .p3) (pend Row.detach .p3 [] live)) =
        some ⟨some ⟨.p0, 1000, 6000000⟩, []⟩ := by
  and_intros <;> decide +kernel

/-- 9.7.2, the assertion taken first: the command discarded, the slot EMPTY, the session ended. -/
theorem witness_PortResetEndsSession :
    SessionsSound (pend Row.stepTime .p0 [] leaving) ∧ (pend Row.stepTime .p0 [] leaving).attached .p0 ∧
      after (fun t => (t.ports.p0, decide (leftBy t)))
        (exec (.portReset .p0) (pend Row.stepTime .p0 [] leaving)) =
          some (⟨.detached, 4, .empty, true, []⟩, true) ∧
      SessionsSound State.reset ∧ ¬ State.reset.attached .p2 ∧
      after (fun t => t.ports.p2) (exec (.portReset .p2) State.reset) = some ⟨.detached, 0, .empty, true, []⟩ := by
  and_intros <;> decide +kernel

theorem witness_ResetNegations :
    State.reset.resetAsserted = true ∧
      after (fun t => (t.resetAsserted, t.events.lines.ev2.level))
        (exec (.resetNegation ⟨.low, .low, .high, .low⟩) State.reset) = some (false, .high) ∧
      after (fun t => t.ports.p1.resetAsserted)
        (exec (.portResetNegation .p1) (live.putPort .p1 { HostPort.reset true with sessionNumber := 3 })) =
          some false := by
  and_intros <;> decide +kernel

/-- Device reset of a part in use. -/
theorem test_deviceReset :
    after (fun t => (t.time, t.authority, t.ports.p0, t.resetAsserted)) (exec .deviceReset live) =
      some (⟨0, ⟨0, 0⟩, 0, .free, 0, none, 0, 0⟩, ⟨none, []⟩, ⟨.detached, 0, .empty, false, []⟩, true) := by
  decide +kernel

/-- An entry of P1 on OUT2, due at 11 s 0 ns. -/
def lineEntry : Entry :=
  { owner := .p1, action := .line .out2 .turnOn, release := ⟨11, 0⟩, sequence := 7, period := some ⟨0, 100000000⟩,
    remaining := none, occurrences := 3, missed := 1, notify := true, keep := false, strict := false }

/-- The block of QUERY_ENTRY for it, written out from Table 10-8, from its state byte to its cause. -/
def lineEntryBytes (state cause : Byte) : List Byte :=
  [state, 9, 1, 2, 0, 0, 0, 11, 0, 0, 0, 0, 0, 0, 0, 7, 0x11, 0, 0, 0x05, 0xF5, 0xE1, 0x00, 0, 0, 0, 0, 0,
    6, 1, 0, 0, 0, 0, 0, 3, 0, 1, cause]

/-- 9.7.3 STATUS of a detached port, QUERY_LINES with nothing claimed, QUERY_ENTRY at its bounds. -/
theorem witness_QueriesChangeNothing :
    (let s := { live with
      ports := { live.ports with p3 := { HostPort.reset false with sessionNumber := 2 } }
      authority := ⟨some ⟨.p0, 1000, 6000000⟩, []⟩
      store := { live.store with charge := ⟨0, 0, 0, 5⟩ } }
     Gives (.status .p3) Row.status .p3 [] s .ok
       [3, 0, 2, 1, 9, 0, 0, 0, 0, 0x02, 0x00, 128, 0, 5, 0, 128, 0, 0]) ∧
      Gives (.queryLines .p1) Row.queryLines .p1 [] live .ok
        (List.replicate 8 0xFF ++ [1, 0, 0, 0, 0, 1, 0, 0, 0, 0, 1, 0, 0, 0, 0, 1, 0, 0, 0, 0] ++
          List.replicate 16 0) ∧
      Gives (.queryEntry .p2) Row.queryEntry .p2 [128, 0] live .range [] ∧
      Gives (.queryEntry .p2) Row.queryEntry .p2 [127, 0] live .staleHandle [] ∧
      Gives (.queryEntry .p2) Row.queryEntry .p2 [64, 8] (withArmed 64 9 lineEntry live) .staleHandle [] ∧
      Gives (.queryEntry .p2) Row.queryEntry .p2 [64, 9] (withArmed 64 9 lineEntry live) .ok (lineEntryBytes 1 0) ∧
      Gives (.queryEntry .p2) Row.queryEntry .p2 [127, 9] (withFinished 127 9 lineEntry .outOfRange live) .ok
        (lineEntryBytes 2 4) := by
  and_intros <;> decide +kernel

/-! ### Reports (8.8.1, 10.6) -/

def quotaReport : ReportBody := .quotaChanged 128 16 0 .p0
def causeAt : Stamp := ⟨9, ⟨2, 5⟩⟩

/-- P2's queue with the one report of 10.6. -/
def oneReport : State :=
  live.putReports .p2 { ReportQueue.reset with
    nextSequence := 518
    reports := [⟨517, ⟨2, ⟨88, 500000004⟩⟩,
      .deliveryFailed ⟨12, 3⟩ 9 ⟨88, 500000000⟩ false [(.p1, .closed), (.p3, .full)]⟩] }

/-- 10.6, byte for byte, and the mask of R148. -/
theorem witness_ReportCommands :
    Gives (.takeReport .p2) Row.takeReport .p2 [] live .empty [] ∧
      Gives (.takeReport .p2) Row.takeReport .p2 [] oneReport .ok
        [0x00, 0x09, 0x02, 0x05, 0x02, 0x00, 0x00, 0x00, 0x58, 0x1D, 0xCD, 0x65, 0x04, 0x0C, 0x03, 0x00, 0x09,
          0x00, 0x00, 0x00, 0x58, 0x1D, 0xCD, 0x65, 0x00, 0x00, 0x02, 0x01, 0x02, 0x03, 0x03] ∧
      Gives (.setReportMask .p2) Row.setReportMask .p2 (2 :: List.replicate 12 1) live .badParam [] ∧
      Gives (.setReportMask .p2) Row.setReportMask .p2 (List.replicate 12 1 ++ [0]) live .badParam [] ∧
      Gives (.setReportMask .p2) Row.setReportMask .p2 (List.replicate 12 0 ++ [1]) oneReport .ok
        (List.replicate 13 1 ++ [1]) := by
  and_intros <;> decide +kernel

/-- The record lengths of Table 10-13 for the thirteen kinds, the header of Table 10-12 its first 12 bytes;
DELIVERY_FAILED with one and with four failed ports. -/
theorem test_report_lengths :
    ([.authorityGranted .p0 .expired 500 12000000, .authorityLost 500 12000000 none,
        .timeChanged ⟨1, 2⟩ ⟨3, 4⟩ 5 .wrap, .slewDone .elapsed (-1) 0,
        .alignResult .step .ev1 ⟨500, 0⟩ (.cancelled .lineReleased),
        .offset .ev1 ⟨500, 0⟩ causeAt .falling ⟨true, ⟨0, 1⟩⟩ true,
        .entryReleased ⟨12, 3⟩ 9 ⟨88, 0⟩ 0 false (.line true), .entryFinished ⟨12, 3⟩ .outOfRange 9 0,
        .deliveryFailed ⟨12, 3⟩ 9 ⟨88, 0⟩ false [(.p1, .closed)],
        .deliveryFailed ⟨12, 3⟩ 9 ⟨88, 0⟩ true (Port.all.map (·, .full)),
        .lineRefused ⟨12, 3⟩ 9 .out3 .toggle ⟨88, 0⟩ false none, .captureReady .ev3 ⟨causeAt, .rising, 0⟩,
        quotaReport, .reportsLost 2 causeAt] : List ReportBody).map (fun body => 12 + (reportFields body).length) =
      [22, 21, 30, 21, 43, 41, 29, 19, 28, 34, 29, 24, 19, 23] := by decide +kernel

/-- A queue of `n` reports with the counter at `200 + n`. -/
def queueOf (n : Nat) : ReportQueue :=
  { ReportQueue.reset with
    nextSequence := 200 + BitVec.ofNat 16 n
    reports := (List.range n).map fun k =>
      ⟨200 + BitVec.ofNat 16 k, ⟨0, ⟨1, 0⟩⟩, .quotaChanged 128 200 0 .p0⟩ }

/-- 8.8.1: a report stored fifteenth, one that opens REPORTS_LOST, one folded into it. -/
theorem witness_ReportPlacedInQueue :
    live.attached .p1 ∧ live.departing ≠ some .p1 ∧ (queueOf 14).mask[quotaReport.kind] = true ∧
      (let q := (report .p1 causeAt quotaReport (live.putReports .p1 (queueOf 14))).reports.p1
       (q.reports.length, q.nextSequence, q.lostOpen) = (15, 215, false)) ∧
      (let q := (report .p1 causeAt quotaReport (live.putReports .p1 (queueOf 15))).reports.p1
       (q.reports.length, q.nextSequence, q.lostOpen, q.reports.getLast?.map (·.body)) =
         (16, 216, true, some (.reportsLost 1 causeAt))) ∧
      (let lost : Report := ⟨215, causeAt, .reportsLost 1 causeAt⟩
       let full := { queueOf 15 with reports := (queueOf 15).reports ++ [lost], nextSequence := 216, lostOpen := true }
       let q := (report .p1 ⟨9, ⟨3, 0⟩⟩ quotaReport (live.putReports .p1 full)).reports.p1
       (q.reports.length, q.nextSequence, q.reports.getLast?.map (·.body)) =
         (16, 216, some (.reportsLost 2 ⟨9, ⟨3, 0⟩⟩))) ∧
      ¬ State.reset.attached .p1 ∧ (report .p1 causeAt quotaReport State.reset).reports.p1.reports = [] ∧
      (report .p1 causeAt quotaReport { live with departing := some .p1 }).reports.p1.reports = [] := by
  and_intros <;> decide +kernel

/-- 8.8.3: a delivery asserts nATTNn, attention OFF negates it, a report asserts it again. -/
theorem test_attention :
    let d : Delivery := ⟨⟨0, 1⟩, .p0, 0, 0, ⟨0, 1⟩, 1, 0, ⟨1, 0⟩, ⟨9, ⟨1, 0⟩⟩, false⟩
    live.attention .p3 = false ∧ (live.putInbox .p3 ⟨[d], .accepting, true⟩).attention .p3 = true ∧
      (live.putInbox .p3 ⟨[d], .accepting, false⟩).attention .p3 = false ∧ oneReport.attention .p2 = true ∧
      (State.reset.putInbox .p3 ⟨[d], .accepting, true⟩).attention .p3 = false := by
  and_intros <;> decide +kernel

/-! ### The Time Base (1.10) -/

theorem witness_ReadTimeAnswersBothTimes :
    Gives (.readTime .p1) Row.readTime .p1 [] live .ok
        [9, 0, 0, 0, 1, 0x0B, 0xEB, 0xC2, 0x00, 0, 0, 0, 123, 1, 0, 0, 0, 0x4C, 0x4B, 0x40] ∧
      Executes Row.readTime .p1 ⟨0x01, 0x21, []⟩ false false (pend Row.readTime .p1 [] ticking) ∧
      answerOf .p1 (exec (.readTime .p1) (pend Row.readTime .p1 [] ticking)) = some (.ok,
        [9, 0, 0, 0, 1, 0x0B, 0xEB, 0xC2, 0x00, 0, 0, 0, 123, 1, 0, 0, 0, 0x4C, 0x4B, 0x41]) ∧
      ticking.time.periods ≤ 100 := by
  and_intros <;> decide +kernel

/-- 1.10.5: a slew of −42,950 with 600,000 µs left. -/
def slewing : State := withTime (fun t => { t with slew := some ⟨-42950, 5600000⟩ }) live

/-- LOAD_TIME at the bound of the nanoseconds, with and without a slew running. -/
theorem witness_LoadTimeChangesTime :
    Gives (.loadTime .p0) Row.loadTime .p0 [0, 0, 0x03, 0xE8, 0x3B, 0x9A, 0xCA, 0x00] live .range [] ∧
      Gives (.loadTime .p0) Row.loadTime .p0 [0, 0, 0x03, 0xE8, 0x3B, 0x9A, 0xC9, 0xFF] live .ok
        [0, 0, 0, 1, 0x0B, 0xEB, 0xC2, 0x00, 0, 0, 0x03, 0xE8, 0x3B, 0x9A, 0xC9, 0xFF, 10] ∧
      live.time.slew = none ∧ slewing.time.slew = some ⟨-42950, 5600000⟩ ∧
      after (fun t => (t.reports.p0.reports.map (·.body), t.time.frac, t.time.slew))
        (exec (.loadTime .p0) (pend Row.loadTime .p0 [0, 0, 0x03, 0xE8, 0, 0, 0, 0] slewing)) =
          some ([.slewDone .loaded (-42950) 600000, .timeChanged ⟨1, 200000000⟩ ⟨1000, 0⟩ 10 .load], 0, none) := by
  and_intros <;> decide +kernel

/-- The five rows of 1.10.3, the sign's bound, and a step past the end of the scale. -/
theorem witness_StepTimeChangesTime :
    Gives (.stepTime .p0) Row.stepTime .p0 [1, 0, 0, 0, 1, 0x1D, 0xCD, 0x65, 0x00] live .range [] ∧
      Gives (.stepTime .p0) Row.stepTime .p0 [1, 0, 0, 0, 1, 0x0B, 0xEB, 0xC2, 0x00] live .ok
        [0, 0, 0, 1, 0x0B, 0xEB, 0xC2, 0x00, 0, 0, 0, 0, 0, 0, 0, 0, 10] ∧
      Gives (.stepTime .p0) Row.stepTime .p0 [0, 0, 0, 0, 0, 0, 0, 0, 20]
        (withTime (fun t => { t with now := ⟨0, 999999990⟩, epoch := 11 }) live) .ok
        [0, 0, 0, 0, 0x3B, 0x9A, 0xC9, 0xF6, 0, 0, 0, 1, 0, 0, 0, 10, 12] ∧
      Gives (.stepTime .p0) Row.stepTime .p0 [0, 0x80, 0, 0, 0, 0, 0, 0, 0] live .range [] ∧
      Gives (.stepTime .p0) Row.stepTime .p0 [0, 0, 0, 0, 0, 0x3B, 0x9A, 0xCA, 0x00] live .range [] ∧
      Gives (.stepTime .p0) Row.stepTime .p0 [2, 0, 0, 0, 0, 0, 0, 0, 0] live .badParam [] ∧
      Gives (.stepTime .p0) Row.stepTime .p0 [0, 0, 0, 0, 0, 0, 0, 0, 1]
        (withTime (fun t => { t with now := maxPoint }) live) .range [] := by
  and_intros <;> decide +kernel

/-- The rate range ends at +67,108,864 and −67,108,864 (Table 1-3). -/
theorem witness_SetRateReplacesBaseRate :
    Gives (.setRate .p0) Row.setRate .p0 [0x04, 0, 0, 0] live .ok [0, 0, 0, 0] ∧
      Gives (.setRate .p0) Row.setRate .p0 [0x04, 0, 0, 1] live .range [] ∧
      Gives (.setRate .p0) Row.setRate .p0 [0xFC, 0, 0, 0]
        (withTime (fun t => { t with baseRate := -42950 }) live) .ok [0xFF, 0xFF, 0x58, 0x3A] ∧
      Gives (.setRate .p0) Row.setRate .p0 [0xFB, 0xFF, 0xFF, 0xFF] live .range [] := by
  and_intros <;> decide +kernel

/-- 1.10.5: the slew of 2,000 ms from 5,000,000 µs ends at 7,000,000 µs; and STOP_SLEW at its end. -/
theorem witness_SlewStartsAndStops :
    Gives (.startSlew .p0) Row.startSlew .p0 [0xFF, 0xFF, 0x58, 0x3A, 0, 0, 0x07, 0xD0] live .ok
        [0, 0, 0, 0x6A, 0xCF, 0xC0] ∧
      Gives (.startSlew .p0) Row.startSlew .p0 [0x04, 0, 0, 1, 0, 0, 0, 1] live .range [] ∧
      Gives (.startSlew .p0) Row.startSlew .p0 [0, 0, 0, 0, 0, 0, 0, 0] live .range [] ∧
      Gives (.startSlew .p0) Row.startSlew .p0 [0, 0, 0, 0, 0, 0x0F, 0x42, 0x41] live .range [] ∧
      after (fun t => t.reports.p0.reports.map (·.body))
        (exec (.startSlew .p0) (pend Row.startSlew .p0 [0, 0, 0, 0, 0, 0x0F, 0x42, 0x40] slewing)) =
          some [.slewDone .replaced (-42950) 600000] ∧
      Gives (.stopSlew .p0) Row.stopSlew .p0 [] live .ok (List.replicate 8 0) ∧
      Gives (.stopSlew .p0) Row.stopSlew .p0 []
        (withTime (fun t => { t with slew := some ⟨4295, 5000000⟩ }) live) .ok [0, 0, 0, 0, 0, 0, 0x10, 0xC7] := by
  and_intros <;> decide +kernel

/-- A slew and a pulse whose end is the present; VACANT, nobody is told. -/
def endsNow : State :=
  (withTime (fun t => { t with slew := some ⟨4295, 5000000⟩ }) live).putOut .out1 ⟨.high, some ⟨5000000, .low⟩⟩

theorem witness_EndsInElapsedTime :
    distance endsNow.time.elapsed 5000000 = 0 ∧ endsNow.authority.holder = some ⟨.p0, 1000, 6000000⟩ ∧
      after (fun t => (t.time.slew, t.reports.p0.reports.map (·.body))) (exec .slewEnd endsNow) =
        some (none, [.slewDone .elapsed 4295 0]) ∧
      after (fun t => (t.time.slew, t.reports.p0.reports)) (exec .slewEnd { endsNow with authority := .reset }) =
        some (none, []) ∧
      after (fun t => t.outputs.out1) (exec (.pulseEnd .out1) endsNow) = some ⟨.low, none⟩ ∧
      distance 281474976710655 0 = 1 ∧ distance 0 281474976710655 = 281474976710655 := by
  and_intros <;> decide +kernel

/-- 1.10.2: 100 s 999,999,995 ns, fraction 4,000,000,000, base rate +60,000,000. -/
def beforeCarry : State :=
  withTime (fun t => { t with
    epoch := 4, now := ⟨100, 999999995⟩, frac := 4000000000, baseRate := 60000000 }) live

/-- 1.10.4: the end of the scale at epoch 7. -/
def beforeWrap : State :=
  withTime (fun t => { t with epoch := 7, now := ⟨4294967295, 999999995⟩, frac := 0 }) live

/-- The same with the lease of P0 that ends at that present too. -/
def leaseEndsToo : State := { endsNow with authority := ⟨some ⟨.p0, 1000, 5000000⟩, [⟨.p3, 2000⟩]⟩ }

theorem witness_AdvanceByOneIncrement :
    beforeCarry.resetAsserted = false ∧ TimeInRange beforeCarry.time ∧ TimeInRange beforeWrap.time ∧
      (∀ x ∈ beforeCarry.time.slew, distance beforeCarry.time.elapsed x.stop ≠ 0) ∧
      (∀ h ∈ beforeCarry.authority.holder, distance beforeCarry.time.elapsed h.expiry ≠ 0) ∧
      (∀ o ∈ OutLine.all, (beforeCarry.outputs.get o).pulse = none) ∧
      after (fun t => (t.time.epoch, t.time.now, t.time.frac, t.time.periods)) (exec .refclkAdvance beforeCarry) =
        some (4, ⟨101, 5⟩, 4060000000, 8) ∧
      after (fun t => (t.time.epoch, t.time.now, t.time.frac, t.reports.p1.reports.map (·.body)))
        (exec .refclkAdvance beforeWrap) =
          some (8, ⟨0, 5⟩, 0, [.timeChanged ⟨4294967295, 999999995⟩ ⟨0, 5⟩ 8 .wrap]) ∧
      State.reset.resetAsserted = true ∧
      TimeInRange endsNow.time ∧ endsNow.resetAsserted = false ∧
      after (fun t => (t.time.now, t.time.slew, t.outputs.out1, t.reports.p0.reports.map (·.body)))
        (exec .refclkAdvance endsNow) =
          some (⟨1, 200000010⟩, none, ⟨.low, none⟩, [.slewDone .elapsed 4295 0]) ∧
      (leaseEndsToo.authority.holder = some ⟨.p0, 1000, 5000000⟩ ∧ TimeInRange leaseEndsToo.time ∧
        distance leaseEndsToo.time.elapsed 5000000 = 0) := by
  and_intros <;> decide +kernel

theorem witness_ElapsedTickCountsMicroseconds :
    after (fun t => (t.time.elapsed, t.time.periods))
        (exec .elapsedTick (withTime (fun t => { t with elapsed := 281474976710655, periods := 100 }) live)) =
          some (0, 0) ∧
      after (fun t => (t.time.elapsed, t.time.periods))
        (exec .elapsedTick (withTime (fun t => { t with periods := 99 }) live)) = some (5000000, 99) := by
  and_intros <;> decide +kernel

/-! ### The Time Authority (2.8) -/

/-- 2.8.1 at some local elapsed time: P1 the holder with 500 ms, P3 waiting with 2,000 ms. -/
def claimed (elapsed expiry : Nat) (waiters : List Waiter) : State :=
  { withTime (fun t => { t with elapsed := elapsed }) live with authority := ⟨some ⟨.p1, 500, expiry⟩, waiters⟩ }

theorem witness_ClaimAuthorityOutcomes :
    Gives (.claimAuthority .p1) Row.claimAuthority .p1 [0x01, 0xF4]
        { claimed 1000000 0 [] with authority := .reset } .ok [0x01, 0xF4, 0, 0, 0, 0x16, 0xE3, 0x60] ∧
      Gives (.claimAuthority .p3) Row.claimAuthority .p3 [0x07, 0xD0] (claimed 1010000 1500000 []) .waiting [1] ∧
      Gives (.claimAuthority .p0) Row.claimAuthority .p0 [0xFD, 0xE8] (claimed 1020000 1500000 [⟨.p3, 2000⟩])
        .range [] ∧
      Gives (.claimAuthority .p0) Row.claimAuthority .p0 [0x03, 0xE8] (claimed 1030000 1500000 [⟨.p3, 2000⟩])
        .waiting [2] ∧
      Gives (.claimAuthority .p3) Row.claimAuthority .p3 [0x00, 0x0A] (claimed 1030000 1500000 [⟨.p3, 2000⟩])
        .alreadyWaiting [1] ∧
      Gives (.claimAuthority .p1) Row.claimAuthority .p1 [0xEA, 0x60] (claimed 1000000 1500000 [])
        .alreadyHolder [0xEA, 0x60, 0, 0, 0x03, 0xA2, 0xC9, 0x40] := by
  and_intros <;> decide +kernel

theorem witness_RenewAndWithdraw :
    Gives (.renewAuthority .p1) Row.renewAuthority .p1 [] (claimed 1400000 1500000 [⟨.p3, 2000⟩, ⟨.p0, 1000⟩])
        .ok [0x01, 0xF4, 0, 0, 0, 0x1C, 0xFD, 0xE0] ∧
      Gives (.renewAuthority .p3) Row.renewAuthority .p3 [] (claimed 1450000 1900000 [⟨.p3, 2000⟩])
        .notAuthority [] ∧
      Gives (.withdrawClaim .p0) Row.withdrawClaim .p0 [] (claimed 1450000 1900000 [⟨.p3, 2000⟩, ⟨.p0, 1000⟩])
        .ok [2] ∧
      Gives (.withdrawClaim .p2) Row.withdrawClaim .p2 [] (claimed 1450000 1900000 [⟨.p3, 2000⟩])
        .notWaiting [] := by
  and_intros <;> decide +kernel

/-- 11.4 before the expiry: P0's hold and armed align, E1 of P2 in record 10 and E2 of P3 in record 11. -/
def heldAndArmed : State :=
  let e1 : Entry :=
    { owner := .p2, action := .deliver ⟨false, false, false, true⟩ ⟨22, 7⟩, release := ⟨500, 0⟩, sequence := 7,
      period := some ⟨0, 40000000⟩, remaining := none, occurrences := 0, missed := 0, notify := true,
      keep := false, strict := false }
  let e2 : Entry :=
    { e1 with owner := .p3, action := .line .out1 (.pulse 200), release := ⟨500, 50000000⟩, period := none, notify := false }
  let s := withMessage 22 7 (.sealed ⟨.p2, 0, 0, []⟩ 1) (withTime (fun t => { t with
    elapsed := 12000000, now := ⟨500, 100000000⟩, slew := some ⟨4295, 12200000⟩ }) live)
  { s with
    authority := ⟨some ⟨.p0, 500, 12000000⟩, [⟨.p1, 1000⟩]⟩
    calendar := { s.calendar with
      records := (s.calendar.records.set 10 ⟨3, .armed e1⟩).set 11 ⟨4, .armed e2⟩
      armed := [10, 11]
      releaseState := .held }
    events := { s.events with
      lines := { s.events.lines with ev2 := { EventLine.unclaimed .low with owner := some .p0 } }
      outOwner := ⟨none, some .p3, none, none⟩
      arming := some ⟨.step, .ev2, ⟨600, 0⟩, 5000, .p0⟩ } }

/-- Table 11-4. -/
theorem test_loss_while_held_11_4 :
    after (fun t => (t.authority, t.events.arming, t.calendar.releaseState)) (exec .leaseExpiry heldAndArmed) =
        some (⟨some ⟨.p1, 1000, 13000000⟩, []⟩, none, .running) ∧
      after (fun t => (t.calendar.armed, t.calendar.releaseOf 10, t.outputs.out1)) (exec .leaseExpiry heldAndArmed) =
        some ([10], ⟨500, 120000000⟩, ⟨.high, some ⟨12000200, .low⟩⟩) ∧
      after (fun t => ((t.reports.p0.reports.map (·.body), t.reports.p1.reports.map (·.body)),
          t.reports.p2.reports.map (·.body), t.reports.p3.reports.map (·.body)))
        (exec .leaseExpiry heldAndArmed) =
          some (([.authorityLost 500 12000000 (some .p1),
              .alignResult .step .ev2 ⟨600, 0⟩ (.cancelled .authorityLost)],
            [.authorityGranted .p0 .expired 1000 13000000]),
            [.entryReleased ⟨10, 3⟩ 1 ⟨500, 0⟩ 2 true (.placed ⟨false, false, false, true⟩)],
            [.entryFinished ⟨11, 4⟩ .completed 1 0]) := by
  and_intros <;> decide +kernel

/-- 2.8.1: the release at 1,600,000 µs, and 2.8.2: the expiry at 8,100,000 µs; and a HELD Calendar. -/
theorem witness_LossHandsAuthorityOver :
    Gives (.releaseAuthority .p1) Row.releaseAuthority .p1 []
        (claimed 1600000 1900000 [⟨.p3, 2000⟩, ⟨.p0, 1000⟩]) .ok [3] ∧
      after (fun t => (t.authority, t.reports.p3.reports.map (·.body)))
        (exec (.releaseAuthority .p1) (pend Row.releaseAuthority .p1 []
          (claimed 1600000 1900000 [⟨.p3, 2000⟩, ⟨.p0, 1000⟩]))) =
            some (⟨some ⟨.p3, 2000, 3600000⟩, [⟨.p0, 1000⟩]⟩,
              [.authorityGranted .p1 .released 2000 3600000]) ∧
      Gives (.releaseAuthority .p1) Row.releaseAuthority .p1 [] (claimed 1600000 1900000 []) .ok [0xFF] ∧
      Gives (.releaseAuthority .p0) Row.releaseAuthority .p0 [] (claimed 1600000 1900000 []) .notAuthority [] ∧
      distance 8100000 8100000 = 0 ∧
      (let s := { claimed 8100000 0 [] with authority := ⟨some ⟨.p2, 100, 8100000⟩, [⟨.p1, 250⟩]⟩ }
       after (fun t => (t.authority, t.reports.p2.reports.map (·.body), t.reports.p1.reports.map (·.body)))
         (exec .leaseExpiry s) =
           some (⟨some ⟨.p1, 250, 8350000⟩, []⟩, [.authorityLost 100 8100000 (some .p1)],
             [.authorityGranted .p2 .expired 250 8350000])) ∧
      (heldAndArmed.authority.holder = some ⟨.p0, 500, 12000000⟩ ∧
        distance heldAndArmed.time.elapsed 12000000 = 0 ∧ heldAndArmed.calendar.releaseState = .held) ∧
      Gives (.releaseAuthority .p0) Row.releaseAuthority .p0 [] heldAndArmed .ok [1] := by
  and_intros <;> decide +kernel

/-! ### The Message Store (3.8) -/

/-- 3.8.1: P1 with quota 3, the free records 17 and 40 with generations 4 and 1, 20 free blocks. -/
def quotaOfThree : State :=
  withMessage 17 4 .free (withMessage 40 1 .free
    { live with store := { live.store with
      freeRecords := [17, 40], freeBlocks := (List.finRange 512).take 20, quota := ⟨128, 3, 128, 128⟩ } })

/-- A message of a length, its chain the blocks from 100 on. -/
def message (p : Port) (length : Nat) : Message :=
  ⟨p, 0x0101, length, ((List.finRange 512).drop 100).take (blocksFor length)⟩

/-- 3.8.1 with the draft (17, 5) of P1 at a length, and its charge. -/
def drafting (length : Nat) : State :=
  let s := withMessage 17 5 (.draft (message .p1 length)) quotaOfThree
  { s with store := { s.store with charge := ⟨0, blocksFor length, 0, 0⟩, freeRecords := [40] } }

theorem witness_OpenDraftTakesRecord :
    Gives (.openDraft .p1) Row.openDraft .p1 [1, 1] quotaOfThree .ok [17, 5] ∧
      Gives (.openDraft .p1) Row.openDraft .p1 [1, 2] (drafting 96) .ok [40, 2] ∧
      Gives (.openDraft .p1) Row.openDraft .p1 [1, 3]
        (withMessage 40 2 (.draft (message .p1 0)) (drafting 96)) .draftLimit [] ∧
      Gives (.openDraft .p2) Row.openDraft .p2 [1, 3]
        { live with store := { live.store with freeRecords := [] } } .noRecord [] := by
  and_intros <;> decide +kernel

/-- The block of APPEND: handle, byte count, data. -/
def appendBlock (record gen : Byte) (n : Nat) : List Byte :=
  [record, gen, BitVec.ofNat 8 n] ++ List.replicate n 0x5A

/-- The refusals of 3.8.1 and the bounds of Table 3-3. -/
theorem witness_AppendRefusedInOrder :
    Gives (.append .p1) Row.append .p1 [17, 5, 0] (drafting 96) .range [] ∧
      Gives (.append .p1) Row.append .p1 (appendBlock 17 5 33) (drafting 96) .range [] ∧
      Gives (.append .p1) Row.append .p1 ([17, 5, 2] ++ [0]) (drafting 96) .badParam [] ∧
      Gives (.append .p1) Row.append .p1 (appendBlock 128 5 1) (drafting 96) .range [] ∧
      Gives (.append .p1) Row.append .p1 (appendBlock 17 4 4) (drafting 96) .staleHandle [] ∧
      Gives (.append .p2) Row.append .p2 (appendBlock 17 5 4) (drafting 96) .notOwner [] ∧
      Gives (.append .p1) Row.append .p1 (appendBlock 17 5 4)
        (withMessage 17 5 (.sealed (message .p1 96) 1) live) .notDraft [] ∧
      Gives (.append .p1) Row.append .p1 (appendBlock 17 5 1) (drafting 1024) .tooLong [] ∧
      Gives (.append .p1) Row.append .p1 (appendBlock 17 5 1) (drafting 96) .overQuota [] ∧
      (let s := drafting 64
       Gives (.append .p1) Row.append .p1 (appendBlock 17 5 1)
         { s with store := { s.store with freeBlocks := [] } } .noBlocks []) := by
  and_intros <;> decide +kernel

/-- A sound store in which P1 has the draft (0, 1) of 31 bytes in block 0. -/
def oneBlockDraft : State :=
  let s := withMessage 0 1 (.draft ⟨.p1, 0, 31, [0]⟩) live
  { s with store := { s.store with
    freeBlocks := (List.finRange 512).tail, freeRecords := (List.finRange 128).tail, charge := ⟨0, 1, 0, 0⟩ } }

/-- APPEND of the byte that fills a block, and of two, the second of which begins the next one. -/
theorem witness_AppendWritesPayload :
    StoreSound oneBlockDraft.store ∧ Memory.wf oneBlockDraft.store.pool = true ∧
      oneBlockDraft.store.records[(0 : RecordNo)] = ⟨1, .draft ⟨.p1, 0, 31, [0]⟩⟩ ∧
      Gives (.append .p1) Row.append .p1 [0, 1, 1, 0xA5] oneBlockDraft .ok [0, 32, 0, 1] ∧
      Gives (.append .p1) Row.append .p1 [0, 1, 2, 0xA5, 0xB6] oneBlockDraft .ok [0, 33, 0, 2] ∧
      after (fun t => t.store.pool)
        (exec (.append .p1) (pend Row.append .p1 [0, 1, 2, 0xA5, 0xB6] oneBlockDraft)) =
          some [(31, 0xA5), (32, 0xB6)] ∧
      Gives (.append .p1) Row.append .p1 (appendBlock 17 5 32) (drafting 33) .ok [0, 65, 0, 3] := by
  and_intros <;> decide +kernel

theorem witness_AbandonDraftFreesRecord :
    Gives (.abandonDraft .p1) Row.abandonDraft .p1 [128, 5] (drafting 33) .range [] ∧
      Gives (.abandonDraft .p1) Row.abandonDraft .p1 [17, 4] (drafting 33) .staleHandle [] ∧
      Gives (.abandonDraft .p1) Row.abandonDraft .p1 [40, 1] (drafting 33) .staleHandle [] ∧
      Gives (.abandonDraft .p2) Row.abandonDraft .p2 [17, 5] (drafting 33) .notOwner [] ∧
      Gives (.abandonDraft .p1) Row.abandonDraft .p1 [17, 5]
        (withMessage 17 5 (.sealed (message .p1 96) 1) live) .notDraft [] ∧
      Gives (.abandonDraft .p1) Row.abandonDraft .p1 [17, 5] (drafting 33) .ok [2] ∧
      after (fun t => (t.store.freeRecords, t.store.freeBlocks.drop 20, t.store.charge.p1))
        (exec (.abandonDraft .p1) (pend Row.abandonDraft .p1 [17, 5] (drafting 33))) =
          some ([40, 17], [100, 101], 0) := by
  and_intros <;> decide +kernel

/-- 11.1: P1's quota set to 200; 3.8.1: a quota of 2 under a charge of 3, and one of 3 at it. -/
theorem witness_SetQuotaChangesQuota :
    Gives (.setQuota .p0) Row.setQuota .p0 [1, 0, 200] live .ok [0, 128, 0, 0] ∧
      after (fun t => t.reports.p1.reports.map (·.body)) (exec (.setQuota .p0) (pend Row.setQuota .p0 [1, 0, 200] live)) =
        some [.quotaChanged 128 200 0 .p0] ∧
      Gives (.setQuota .p0) Row.setQuota .p0 [4, 0, 200] live .badParam [] ∧
      Gives (.setQuota .p0) Row.setQuota .p0 [1, 2, 1] live .range [] ∧
      Gives (.setQuota .p0) Row.setQuota .p0 [1, 2, 0] live .ok [0, 128, 0, 0] ∧
      Gives (.setQuota .p0) Row.setQuota .p0 [1, 0, 2] (drafting 96) .quotaBelowCharge [] ∧
      Gives (.setQuota .p0) Row.setQuota .p0 [1, 0, 3] (drafting 96) .ok [0, 3, 0, 3] := by
  and_intros <;> decide +kernel

/-! ### The Calendar (4.10) -/

/-- A SCHEDULE block (Table 10-5): time, kind, flags, period, remaining, targets, message, line, action,
width. -/
def block (sec ns : Nat) (kind flags : Byte) (periodNs : Nat) (targets record gen line action : Byte)
    (width : Nat) : List Byte :=
  be 4 sec ++ be 4 ns ++ [kind, flags, 0, 0] ++ be 4 periodNs ++ [0, 0, targets, record, gen, line, action] ++
    be 4 width

/-- 4.10.3: P1 owns OUT2 and has the draft (5, 3); Common Time 10 s 0 ns; record 64 is the one left. -/
def lastRecord : State :=
  let s := withMessage 5 3 (.draft (message .p1 0)) (withFinished 64 9 lineEntry .completed live)
  { s with
    time := { s.time with now := ⟨10, 0⟩, epoch := 1 }
    events := { s.events with outOwner := ⟨none, none, some .p1, none⟩ }
    calendar := { s.calendar with freeRecords := [64] } }

/-- The same with every entry record FREE, a state whose armed list is complete. -/
def scheduling : State := { lastRecord with calendar := .reset }

/-- The rows of 4.10.3 in order. -/
theorem test_schedule_rows_of_4_10_3 :
    Gives (.scheduleAt .p1) Row.scheduleAt .p1 (block 12 0 1 0 0 0 5 3 0 0 0) lastRecord .badParam [] ∧
      Gives (.scheduleAfter .p1) Row.scheduleAfter .p1 (block 1 0 2 0 0 0 0 0 5 1 0) lastRecord
        .lineNotClaimed [] ∧
      Gives (.scheduleAt .p1) Row.scheduleAt .p1 (block 9 0 2 4 0 0 0 0 6 4 2000000) lastRecord .range [] ∧
      Gives (.scheduleAt .p1) Row.scheduleAt .p1 (block 9 0 2 4 0 0 0 0 6 4 500) lastRecord .past [] ∧
      Gives (.scheduleAt .p1) Row.scheduleAt .p1 (block 11 0 1 16 5000 4 5 3 0 0 0) lastRecord .badParam [] ∧
      Gives (.scheduleAt .p1) Row.scheduleAt .p1 (block 11 0 1 16 100000000 4 5 3 0 0 0) lastRecord .ok
        [64, 10, 0, 0, 0, 11, 0, 0, 0, 0, 0, 0, 0, 0] ∧
      Gives (.scheduleAt .p1) Row.scheduleAt .p1 (block 11 0 1 0 0 1 5 3 0 0 0)
        { withMessage 5 3 (.sealed (message .p1 0) 1) lastRecord with
          calendar := { lastRecord.calendar with freeRecords := [] } } .calendarFull [] := by
  and_intros <;> decide +kernel

/-- The command of a SCHEDULE block. -/
def scheduleCommand (row : CommandRow) (ps : List Byte) : Command := ⟨row.code, 0x21, ps⟩

/-- Table 4-2 refuses at its first row, and at its last; and it passes for each kind and command. -/
theorem witness_ScheduleAdmitsOrRefuses :
    RefusesWith (scheduleAtSteps .p1 (scheduleCommand Row.scheduleAt (block 11 0 1 8 0 4 5 3 0 0 0)) scheduling)
        .badParam ∧
      RefusesWith (scheduleAfterSteps .p1 (scheduleCommand Row.scheduleAfter (block 65536 0 2 0 0 0 0 0 6 1 0))
        scheduling) .range ∧
      Passes (scheduleAtSteps .p1 (scheduleCommand Row.scheduleAt (block 10 0 2 0 0 0 0 0 6 4 1000000)) scheduling) ∧
      Passes (scheduleAfterSteps .p1 (scheduleCommand Row.scheduleAfter (block 65535 999999999 1 0 0 15 5 3 0 0 0))
        scheduling) ∧
      ArmedListComplete scheduling.calendar := by
  refine ⟨⟨[], _, _, rfl, by decide +kernel, by simp⟩,
    ⟨[_], _, _, rfl, by decide +kernel, by simp only [List.mem_singleton, forall_eq]; decide +kernel⟩,
    ?_, ?_, by decide +kernel⟩
  · simp only [Passes, scheduleAtSteps, fieldSteps, objectSteps, List.forall_mem_append, List.forall_mem_cons]
    and_intros
    all_goals first
      | decide +kernel
      | exact fun h => absurd h.1 (by decide +kernel)
      | exact fun h => absurd rfl (h.2 .out2 (by decide +kernel))
      | exact fun _ h => absurd h List.not_mem_nil
  · simp only [Passes, scheduleAfterSteps, fieldSteps, objectSteps, List.forall_mem_append, List.forall_mem_cons]
    and_intros
    all_goals first
      | decide +kernel
      | exact fun h => h.1 (by decide +kernel)
      | exact fun h => h.2 ⟨message .p1 0, ⟨5, by decide +kernel, by decide +kernel, .inl (by decide +kernel)⟩⟩
      | exact fun h => h.2
          ⟨message .p1 0, ⟨5, by decide +kernel, by decide +kernel, .inl (by decide +kernel)⟩, rfl⟩
      | exact fun _ h => absurd h List.not_mem_nil

/-- `lineEntry` of P1 ARMED in record 64 with generation 9, Common Time 10 s 0 ns. -/
def oneArmed : State := withArmed 64 9 lineEntry { lastRecord with calendar := .reset }

/-- The same with STRICT, and FINISHED. -/
def oneStrict : State := withArmed 64 9 { lineEntry with strict := true } { lastRecord with calendar := .reset }
def oneFinished : State := withFinished 64 9 lineEntry .cancelled { lastRecord with calendar := .reset }

theorem witness_RetimeMovesEntry :
    Gives (.retime .p1) Row.retime .p1 ([128, 9] ++ be 4 12 ++ be 4 0) oneArmed .range [] ∧
      Gives (.retime .p1) Row.retime .p1 ([64, 9] ++ be 4 12 ++ be 4 1000000000) oneArmed .range [] ∧
      Gives (.retime .p1) Row.retime .p1 ([64, 9] ++ be 4 12 ++ be 4 0)
        (withTime (fun t => { t with timeState := .free }) oneArmed) .timeNotSet [] ∧
      Gives (.retime .p1) Row.retime .p1 ([64, 8] ++ be 4 12 ++ be 4 0) oneArmed .staleHandle [] ∧
      Gives (.retime .p1) Row.retime .p1 ([63, 0] ++ be 4 12 ++ be 4 0) oneArmed .staleHandle [] ∧
      Gives (.retime .p2) Row.retime .p2 ([64, 9] ++ be 4 12 ++ be 4 0) oneArmed .notOwner [] ∧
      Gives (.retime .p1) Row.retime .p1 ([64, 9] ++ be 4 12 ++ be 4 0) oneFinished .tooLate [2, 0, 3, 0, 1] ∧
      Gives (.retime .p1) Row.retime .p1 ([64, 9] ++ be 4 10 ++ be 4 0) oneStrict .past [] ∧
      Gives (.retime .p1) Row.retime .p1 ([64, 9] ++ be 4 10 ++ be 4 1) oneStrict .ok
        [0, 0, 0, 10, 0, 0, 0, 1, 0, 0, 0, 0] ∧
      after (fun t => (t.outputs.out2.level, t.calendar.armed))
        (exec (.retime .p1) (pend Row.retime .p1 ([64, 9] ++ be 4 10 ++ be 4 0) oneArmed)) =
          some (.high, [64]) := by
  and_intros <;> decide +kernel

theorem witness_CancelFinishesEntry :
    Gives (.cancel .p1) Row.cancel .p1 [128, 9] oneArmed .range [] ∧
      Gives (.cancel .p1) Row.cancel .p1 [64, 8] oneArmed .staleHandle [] ∧
      Gives (.cancel .p2) Row.cancel .p2 [64, 9] oneArmed .notOwner [] ∧
      Gives (.cancel .p1) Row.cancel .p1 [64, 9] oneFinished .tooLate [2, 0, 3, 0, 1] ∧
      Gives (.cancel .p1) Row.cancel .p1 [64, 9] oneArmed .ok [0, 3, 0, 1] ∧
      after (fun t => (t.calendar.armed, t.calendar.freeRecords.getLast?, t.reports.p1.reports))
        (exec (.cancel .p1) (pend Row.cancel .p1 [64, 9] oneArmed)) = some ([], some 64, []) := by
  and_intros <;> decide +kernel

/-- A HELD Calendar with the entry due at 11 s 0 ns, at that very time. -/
def heldDue : State :=
  let s := withTime (fun t => { t with now := ⟨11, 0⟩ }) oneArmed
  { s with calendar := { s.calendar with releaseState := .held } }

theorem witness_HoldAndResumeReleases :
    Gives (.holdReleases .p0) Row.holdReleases .p0 [] live .ok [0] ∧
      Gives (.holdReleases .p0) Row.holdReleases .p0 [] heldDue .ok [1] ∧
      Gives (.resumeReleases .p0) Row.resumeReleases .p0 [] live .ok [0, 0] ∧
      Gives (.resumeReleases .p0) Row.resumeReleases .p0 [] heldDue .ok [1, 1] ∧
      after (fun t => (t.calendar.releaseState, t.outputs.out2.level, t.reports.p1.reports.map (·.body)))
        (exec (.resumeReleases .p0) (pend Row.resumeReleases .p0 [] heldDue)) =
          some (.running, .high, [.entryReleased ⟨64, 9⟩ 4 ⟨11, 0⟩ 0 true (.line true)]) := by
  and_intros <;> decide +kernel

/-- The entry of 4.10.1 before the step: due 50 s 3,000,000 ns, period 1 ms, 7 remaining. -/
def periodic (remaining : Option Nat) : Entry :=
  { lineEntry with release := ⟨50, 3000000⟩, period := some ⟨0, 1000000⟩, remaining := remaining }

/-- 4.10.1: the step to 50 s 6,050,000 ns and the one to 50 s 12,050,000 ns. -/
theorem witness_CatchUpCountsDueTimes :
    (0 < (⟨0, 1000000⟩ : Point).toNs ∧
        (⟨50, 3000000⟩ : Point).toNs + 3 * 1000000 ≤ (⟨50, 6050000⟩ : Point).toNs ∧
        (⟨50, 6050000⟩ : Point).toNs < (⟨50, 3000000⟩ : Point).toNs + 4 * 1000000) ∧
      catchUp (periodic (some 7)) ⟨50, 6050000⟩ = ⟨3, some 3, .rearm ⟨50, 7000000⟩⟩ ∧
      catchUp (periodic (some 7)) ⟨50, 12050000⟩ = ⟨6, some 0, .finish .completed⟩ ∧
      catchUp (periodic (some 1)) ⟨50, 3000000⟩ = ⟨0, some 0, .finish .completed⟩ ∧
      catchUp (periodic none) ⟨50, 12050000⟩ = ⟨9, none, .rearm ⟨50, 13000000⟩⟩ ∧
      catchUp { periodic none with release := maxPoint } maxPoint = ⟨0, none, .finish .outOfRange⟩ ∧
      catchUp { periodic none with period := none } ⟨50, 3000000⟩ = ⟨0, none, .finish .completed⟩ := by
  and_intros <;> decide +kernel

/-- A delivery record of P3's message K, record 40. -/
def otherRecord : Delivery := ⟨⟨40, 2⟩, .p3, 0, 0, ⟨9, 1⟩, 1, 0, ⟨1, 0⟩, ⟨9, ⟨1, 0⟩⟩, false⟩

/-- 5.8.1: entry F of P1 in record 64 to all four ports, its last reference on M, handle (22, 7), 40
bytes; P0 with 5 records of K, P1 CLOSED, P2 DETACHED, P3 full. -/
def multicast : State :=
  let e : Entry := { lineEntry with
    action := .deliver ⟨true, true, true, true⟩ ⟨22, 7⟩, period := none, occurrences := 0, missed := 0 }
  let s := withMessage 22 7 (.sealed ⟨.p1, 0, 40, [0, 1]⟩ 1)
    (withMessage 40 2 (.sealed ⟨.p3, 0, 0, []⟩ 6) (withArmed 64 9 e live))
  { s with
    ports := { s.ports with p2 := .reset false }
    inboxes := ⟨⟨List.replicate 5 otherRecord, .accepting, true⟩, ⟨[], .closed, true⟩, .reset,
      ⟨List.replicate 32 otherRecord, .accepting, true⟩⟩ }

/-- 5.8.1: one placed, three failed, the reports in order, the message kept by P0's record. -/
theorem witness_OccurrenceCarriedOut :
    multicast.store.records[(22 : RecordNo)].content = .sealed ⟨.p1, 0, 40, [0, 1]⟩ 1 ∧
      (let t := releaseEntry false multicast 64
       (t.inboxes.p0.records.length, t.inboxes.p1.records.length, t.inboxes.p3.records.length) = (6, 0, 32) ∧
         t.store.records[(22 : RecordNo)].content = .sealed ⟨.p1, 0, 40, [0, 1]⟩ 1 ∧
         t.calendar.armed = [] ∧
         t.reports.p1.reports.map (·.body) =
           [.deliveryFailed ⟨64, 9⟩ 1 ⟨11, 0⟩ false [(.p1, .closed), (.p2, .detached), (.p3, .full)],
             .entryReleased ⟨64, 9⟩ 1 ⟨11, 0⟩ 0 false (.placed ⟨true, false, false, false⟩),
             .entryFinished ⟨64, 9⟩ .completed 1 0]) ∧
      (releaseEntry false oneArmed 64).outputs.out2 = ⟨.high, none⟩ ∧
      (releaseEntry true (oneArmed.putOutOwner .out2 (some .p0)) 64).reports.p1.reports.map (·.body) =
        [.lineRefused ⟨64, 9⟩ 4 .out2 .turnOn ⟨11, 0⟩ true (some .p0),
          .entryReleased ⟨64, 9⟩ 4 ⟨11, 0⟩ 0 true (.line false)] := by
  and_intros <;> decide +kernel

/-! ### Inboxes (5.8) -/

/-- 5.8.2: P0's one record, a message of 40 bytes of which bytes 15, 16 and 39 are not 0. -/
def oneRecord : State :=
  let s := withMessage 22 7 (.sealed ⟨.p1, 0x0A0B, 40, [3, 1]⟩ 1) live
  let d : Delivery := ⟨⟨22, 7⟩, .p1, 0x0A0B, 40, ⟨64, 9⟩, 4, 3, ⟨50, 3000000⟩, ⟨5, ⟨50, 6050000⟩⟩, true⟩
  { s with
    store := { s.store with pool := [(39, 0x39), (111, 0x15), (112, 0x16)] }
    inboxes := { s.inboxes with p0 := ⟨[d], .accepting, true⟩ } }

theorem witness_FetchAndReadPayload :
    Gives (.fetchHead .p0) Row.fetchHead .p0 [] live .empty [] ∧
      Gives (.fetchHead .p0) Row.fetchHead .p0 [] oneRecord .ok
        ([1, 0x0A, 0x0B, 0, 40, 64, 9, 0, 4, 0, 3, 0, 0, 0, 50, 0x00, 0x2D, 0xC6, 0xC0, 5, 0, 0, 0, 50,
          0x00, 0x5C, 0x50, 0xD0, 1, 1] ++ List.replicate 15 0 ++ [0x15]) ∧
      Gives (.readPayload .p0) Row.readPayload .p0 [0, 16, 32] oneRecord .range [] ∧
      Gives (.readPayload .p0) Row.readPayload .p0 [0, 16, 24] oneRecord .ok
        ([0x16] ++ List.replicate 22 0 ++ [0x39]) ∧
      Gives (.readPayload .p0) Row.readPayload .p0 [0, 32, 0] oneRecord .range [] ∧
      Gives (.readPayload .p0) Row.readPayload .p0 [0, 0, 33] oneRecord .range [] ∧
      Gives (.readPayload .p0) Row.readPayload .p0 [4, 0, 1] oneRecord .range [] ∧
      Gives (.readPayload .p0) Row.readPayload .p0 [0, 39, 1] oneRecord .ok [0x39] ∧
      Gives (.readPayload .p0) Row.readPayload .p0 [0, 0, 8] live .empty [] := by
  and_intros <;> decide +kernel

/-- 5.8.1 after the release: P3 discards, P0 flushes six; and the settings of SET_INBOX. -/
theorem witness_InboxCommands :
    Gives (.discardHead .p1) Row.discardHead .p1 [] live .empty [] ∧
      Gives (.discardHead .p3) Row.discardHead .p3 [] multicast .ok [31] ∧
      Gives (.discardHead .p0) Row.discardHead .p0 [] oneRecord .ok [0] ∧
      after (fun t => (t.store.records[(22 : RecordNo)].content, t.store.freeBlocks.drop 512))
        (exec (.discardHead .p0) (pend Row.discardHead .p0 [] oneRecord)) = some (.free, [3, 1]) ∧
      Gives (.flushInbox .p0) Row.flushInbox .p0 [] (releaseEntry false multicast 64) .ok [6] ∧
      after (fun t => (t.store.records[(22 : RecordNo)].content, t.store.records[(40 : RecordNo)].content))
        (exec (.flushInbox .p0) (pend Row.flushInbox .p0 [] (releaseEntry false multicast 64))) =
          some (.free, .sealed ⟨.p3, 0, 0, []⟩ 1) ∧
      Gives (.setInbox .p3) Row.setInbox .p3 [2, 0] multicast .badParam [] ∧
      Gives (.setInbox .p3) Row.setInbox .p3 [0, 2] multicast .badParam [] ∧
      Gives (.setInbox .p3) Row.setInbox .p3 [1, 0] multicast .ok [0, 1, 32] := by
  and_intros <;> decide +kernel

/-! ### Lines (6.6, 7.7) -/

/-- An event line of a port, with an edge select, a compensation and capture records. -/
def eventLine (p : Port) (select : EdgeSelect) (compensation : Nat) (captures : List Capture) (drops : Nat) :
    EventLine :=
  { EventLine.unclaimed .low with
    owner := some p, select := select, compensation := compensation, captures := captures, drops := drops }

/-- The capture record at so many ns past 700 s. -/
def captureAt (ns : Nat) : Capture := ⟨⟨9, ⟨700, ns⟩⟩, .rising, 0⟩

/-- 6.6.1: P2's EV3 with eight records and four drops, Common Time 700 s 1,200,000 ns. -/
def fullQueue : State :=
  withLine .ev3 (eventLine .p2 .rising 0 ((List.range 8).map fun k => captureAt (k * 100000)) 4)
    (withTime (fun t => { t with now := ⟨700, 1200000⟩ }) live)

theorem witness_ClaimLineGrants :
    Gives (.claimLine .p1) Row.claimLine .p1 [8, 1, 0, 0] live .badParam [] ∧
      Gives (.claimLine .p1) Row.claimLine .p1 [0, 0, 0, 0] live .badParam [] ∧
      Gives (.claimLine .p1) Row.claimLine .p1 [0, 4, 0, 0] live .badParam [] ∧
      Gives (.claimLine .p1) Row.claimLine .p1 [7, 2, 0, 0] live .badParam [] ∧
      Gives (.claimLine .p1) Row.claimLine .p1 [0, 1, 0, 40] live .ok [0, 1, 0, 40] ∧
      Gives (.claimLine .p1) Row.claimLine .p1 [3, 1, 0, 40] fullQueue .lineHeld [2] ∧
      Gives (.claimLine .p2) Row.claimLine .p2 [3, 3, 0, 40] fullQueue .alreadyClaimed [] ∧
      Gives (.claimLine .p2) Row.claimLine .p2 [4, 1, 9, 9] live .ok [4, 1, 0, 0] ∧
      Gives (.claimLine .p2) Row.claimLine .p2 [4, 1, 0, 0] (live.putOutOwner .out0 (some .p1)) .lineHeld [1] ∧
      Gives (.claimLine .p1) Row.claimLine .p1 [4, 1, 0, 0] (live.putOutOwner .out0 (some .p1))
        .alreadyClaimed [] := by
  and_intros <;> decide +kernel

/-- P2 has armed an align on EV3. -/
def armedOn3 : State := fullQueue.putArming (some ⟨.measure, .ev3, ⟨700, 0⟩, 0, .p2⟩)

theorem witness_ReleaseLineReturnsLine :
    Gives (.releaseLine .p2) Row.releaseLine .p2 [8] fullQueue .badParam [] ∧
      Gives (.releaseLine .p1) Row.releaseLine .p1 [3] fullQueue .lineNotClaimed [] ∧
      Gives (.releaseLine .p2) Row.releaseLine .p2 [3] fullQueue .ok [8] ∧
      after (fun t => (t.events.arming, t.events.lines.ev3, t.reports.p2.reports.map (·.body)))
        (exec (.releaseLine .p2) (pend Row.releaseLine .p2 [3] armedOn3)) =
          some (none, .unclaimed .low,
            [.alignResult .measure .ev3 ⟨700, 0⟩ (.cancelled .lineReleased)]) ∧
      Gives (.releaseLine .p3) Row.releaseLine .p3 [6] live .lineNotClaimed [] ∧
      Gives (.releaseLine .p3) Row.releaseLine .p3 [6]
        ((live.putOutOwner .out2 (some .p3)).putOut .out2 ⟨.high, none⟩) .ok [0] := by
  and_intros <;> decide +kernel

/-- 6.6.1: the take from the full queue. -/
theorem witness_TakeCaptureRemovesHead :
    Gives (.takeCapture .p2) Row.takeCapture .p2 [4] fullQueue .badParam [] ∧
      Gives (.takeCapture .p1) Row.takeCapture .p1 [3] fullQueue .lineNotClaimed [] ∧
      Gives (.takeCapture .p2) Row.takeCapture .p2 [0] (withLine .ev0 (eventLine .p2 .both 0 [] 0) live) .empty [] ∧
      Gives (.takeCapture .p2) Row.takeCapture .p2 [3] fullQueue .ok
        [9, 0, 0, 0x02, 0xBC, 0, 0, 0, 0, 1, 0, 7, 4] := by
  and_intros <;> decide +kernel

/-- 6.6.2: P0 the holder owns EV1, RISING, compensation 120 ns; Common Time 499 s 999,998,000 ns. -/
def alignReady : State :=
  withLine .ev1 (eventLine .p0 .rising 120 [] 0)
    (withTime (fun t => { t with epoch := 5, now := ⟨499, 999998000⟩ }) live)

/-- The block of ARM_ALIGN for target 500 s 0 ns. -/
def alignBlock (mode line : Byte) (ns guard : Nat) : List Byte := [mode, line] ++ be 4 500 ++ be 4 ns ++ be 4 guard

/-- 6.6.2 armed with a guard. -/
def alignArmed (mode : AlignMode) (guard : Nat) : State :=
  alignReady.putArming (some ⟨mode, .ev1, ⟨500, 0⟩, guard, .p0⟩)

theorem witness_AlignArmedAndDisarmed :
    Gives (.armAlign .p0) Row.armAlign .p0 (alignBlock 1 1 0 10000) alignReady .ok
        [1, 1, 0, 0, 0x01, 0xF4, 0, 0, 0, 0, 0, 0, 0x27, 0x10] ∧
      Gives (.armAlign .p0) Row.armAlign .p0 (alignBlock 0 1 0 0) alignReady .badParam [] ∧
      Gives (.armAlign .p0) Row.armAlign .p0 (alignBlock 3 1 0 0) alignReady .badParam [] ∧
      Gives (.armAlign .p0) Row.armAlign .p0 (alignBlock 1 4 0 0) alignReady .badParam [] ∧
      Gives (.armAlign .p0) Row.armAlign .p0 (alignBlock 1 1 1000000000 0) alignReady .range [] ∧
      Gives (.armAlign .p0) Row.armAlign .p0 (alignBlock 1 1 999999999 1000000000) alignReady .range [] ∧
      Gives (.armAlign .p0) Row.armAlign .p0 (alignBlock 1 2 0 0) alignReady .lineNotClaimed [] ∧
      Gives (.armAlign .p0) Row.armAlign .p0 (alignBlock 2 1 0 0) (alignArmed .step 0) .alignBusy [] ∧
      Gives (.disarmAlign .p0) Row.disarmAlign .p0 [] alignReady .notArmed [] ∧
      Gives (.disarmAlign .p0) Row.disarmAlign .p0 [] (alignArmed .step 10000) .ok
        [1, 1, 0, 0, 0x01, 0xF4, 0, 0, 0, 0, 0, 0, 0x27, 0x10] := by
  and_intros <;> decide +kernel

/-- 6.6.1: the thirteenth edge after the take, an edge into an empty queue, a dropped edge, an excluded
one; a change held for 29 ns, one to the recognized level, and one under nRESET. -/
theorem witness_EdgeRecognizedAndCaptured :
    (let s := withLine .ev3 (eventLine .p2 .rising 0 ((List.range 7).map fun k => captureAt ((k + 1) * 100000)) 4)
        (withTime (fun t => { t with now := ⟨700, 1200000⟩ }) live)
     after (fun t => ((t.events.lines.ev3.captures.getLast?, t.events.lines.ev3.drops), t.reports.p2.reports))
       (exec (.edgeRecognized .ev3 .high 30) s) = some ((some { captureAt 1200000 with lostBefore := 4 }, 0), [])) ∧
      after (fun t => (t.events.lines.ev3.captures.length, t.events.lines.ev3.drops))
        (exec (.edgeRecognized .ev3 .high 30) fullQueue) = some (8, 5) ∧
      after (fun t => t.reports.p0.reports.map (·.body)) (exec (.edgeRecognized .ev1 .high 30) alignReady) =
        some [.captureReady .ev1 ⟨⟨5, ⟨499, 999997880⟩⟩, .rising, 0⟩] ∧
      (let s := withLine .ev3 { eventLine .p2 .rising 0 [] 0 with level := .high } live
       after (fun t => (t.events.lines.ev3.level, t.events.lines.ev3.captures))
         (exec (.edgeRecognized .ev3 .low 30) s) = some (.low, [])) ∧
      after (fun t => t.events.lines.ev0.level) (exec (.edgeRecognized .ev0 .high 30) live) = some .high ∧
      after id (exec (.edgeRecognized .ev1 .high 29) alignReady) = some alignReady ∧
      after id (exec (.edgeRecognized .ev1 .low 30) alignReady) = some alignReady ∧
      after (fun t => t.events.lines.ev0.level) (exec (.edgeRecognized .ev0 .high 30) State.reset) = some .low := by
  and_intros <;> decide +kernel

/-- 6.6.2: the step accepted under guard 10,000 ns, rejected under 1,000 ns; and a MEASURE. -/
theorem witness_AlignEdgeActs :
    (offsetFrom ⟨500, 0⟩ ⟨499, 999997880⟩ = ⟨false, ⟨0, 2120⟩⟩ ∧
        (⟨499, 999997880⟩ : Point).toNs = (⟨499, 999998000⟩ : Point).toNs - 120) ∧
      after (fun t => (t.time.now, t.time.epoch, t.time.frac, t.events.arming, t.reports.p0.reports.map (·.body)))
        (exec (.edgeRecognized .ev1 .high 30) (alignArmed .step 10000)) =
          some (⟨500, 120⟩, 6, 0, none,
            [.captureReady .ev1 ⟨⟨5, ⟨499, 999997880⟩⟩, .rising, 0⟩,
              .timeChanged ⟨499, 999998000⟩ ⟨500, 120⟩ 6 .align,
              .alignResult .step .ev1 ⟨500, 0⟩ (.stepped ⟨5, ⟨499, 999997880⟩⟩ ⟨false, ⟨0, 2120⟩⟩ true)]) ∧
      after (fun t => (t.time.now, t.time.epoch, t.events.arming, t.reports.p0.reports.length))
        (exec (.edgeRecognized .ev1 .high 30) (alignArmed .step 2120)) = some (⟨500, 120⟩, 6, none, 3) ∧
      after (fun t => (t.time.now, t.time.epoch, t.events.arming, (t.reports.p0.reports.map (·.body)).getLast?))
        (exec (.edgeRecognized .ev1 .high 30) (alignArmed .step 1000)) =
          some (⟨499, 999998000⟩, 5, none, some (.alignResult .step .ev1 ⟨500, 0⟩
            (.rejected ⟨5, ⟨499, 999997880⟩⟩ ⟨false, ⟨0, 2120⟩⟩ true))) ∧
      after (fun t => (t.time.now, t.events.arming.isSome, (t.reports.p0.reports.map (·.body)).getLast?))
        (exec (.edgeRecognized .ev1 .high 30) (alignArmed .measure 1000)) =
          some (⟨499, 999998000⟩, true, some (.offset .ev1 ⟨500, 0⟩ ⟨5, ⟨499, 999997880⟩⟩ .rising
            ⟨false, ⟨0, 2120⟩⟩ true)) := by
  and_intros <;> decide +kernel

/-- 7.7.1: P1 owns OUT0; local elapsed time and the stage as given. -/
def driving (elapsed : Nat) (x : OutStage) : State :=
  ((withTime (fun t => { t with elapsed := elapsed }) live).putOutOwner .out0 (some .p1)).putOut .out0 x

/-- The rows of 7.7.1 that P1 drives, and the checks of DRIVE_LINE. -/
theorem witness_DriveLineActs :
    Gives (.driveLine .p1) Row.driveLine .p1 [4, 4, 0, 0, 0x01, 0xF4] (driving 2000100 ⟨.low, none⟩) .ok
        [0, 1, 1, 0, 0, 0, 0, 0x1E, 0x86, 0xD8] ∧
      Gives (.driveLine .p1) Row.driveLine .p1 [4, 1, 0, 0, 0, 0] (driving 2001000 ⟨.low, none⟩) .ok
        ([0, 1] ++ List.replicate 8 0) ∧
      Gives (.driveLine .p1) Row.driveLine .p1 [4, 4, 0, 0, 0, 200] (driving 2001100 ⟨.high, none⟩) .ok
        [1, 0, 1, 1, 0, 0, 0, 0x1E, 0x89, 0x94] ∧
      Gives (.driveLine .p1) Row.driveLine .p1 [4, 3, 0, 0, 0, 0] (driving 2001200 ⟨.low, some ⟨2001300, .high⟩⟩)
        .ok ([0, 0] ++ List.replicate 8 0) ∧
      Gives (.driveLine .p1) Row.driveLine .p1 [3, 1, 0, 0, 0, 0] (driving 0 .idle) .badParam [] ∧
      Gives (.driveLine .p1) Row.driveLine .p1 [4, 5, 0, 0, 0, 0] (driving 0 .idle) .badParam [] ∧
      Gives (.driveLine .p1) Row.driveLine .p1 [4, 4, 0, 0, 0, 0] (driving 0 .idle) .range [] ∧
      Gives (.driveLine .p1) Row.driveLine .p1 [4, 4, 0, 0x0F, 0x42, 0x41] (driving 0 .idle) .range [] ∧
      Gives (.driveLine .p2) Row.driveLine .p2 [4, 2, 0, 0, 0, 0] (driving 0 .idle) .lineNotClaimed [] ∧
      (driving 0 .idle).time.periods < 100 := by
  and_intros <;> decide +kernel

/-! ### Sound states that have a step -/

/-- 6.6.2 with its edge at the front of the queue: time SET, a holder, a waiter, a claim, an arming. -/
def busy : State := { alignArmed .step 10000 with pending := [.edgeRecognized .ev1 .high 30] }

theorem witness_busy_steps : ∃ t, step busy = .next t := ⟨_, rfl⟩

theorem witness_NoEndIsEverPassed : NoEndPassed busy := by
  and_intros <;> decide +kernel

theorem witness_SessionsStaySound : SessionsSound busy := by
  and_intros <;> decide +kernel

theorem witness_StoreStaysSound : StoreSound oneBlockDraft.store ∧ Memory.wf oneBlockDraft.store.pool = true ∧
    ∃ t, step { oneBlockDraft with pending := [.readTime .p0] } = .next t :=
  ⟨witness_AppendWritesPayload.1, witness_AppendWritesPayload.2.1, _, rfl⟩

theorem witness_CalendarStaysSound : CalendarSound busy := by
  and_intros <;> decide +kernel

theorem witness_ReferencesStayExact : ReferencesSound busy := by
  and_intros <;> decide +kernel

theorem witness_QueuesAndOutputsStaySound : QueuesBounded busy ∧ OutputsSound busy := by
  and_intros <;> decide +kernel

/-- A part under device reset, with a command write waiting; and P2's nPRSTn asserted. -/
theorem witness_ResetInputsHold :
    ResetsHold { State.reset with pending := [.commandWrite .p2 (ofBytes [0xC3])] } ∧
      ResetsHold (live.putPort .p2 (.reset true)) ∧
      ∃ t, step { State.reset with pending := [.commandWrite .p2 (ofBytes [0xC3])] } = .next t := by
  refine ⟨⟨fun _ => rfl, by decide +kernel⟩, ⟨fun h => absurd h (by decide +kernel), by decide +kernel⟩, _, rfl⟩

/-- The queue of the part after reset is empty, and the part idles. -/
theorem witness_StepRunsFrontCommand :
    State.reset.pending = [] ∧ after (fun t => t.pending) (step busy) = some [] := by
  and_intros <;> decide +kernel

end Sys2Proof.Tests
end

/-! The ends in local elapsed time (R8): every operation of the part but the tick and the advance keeps
the ends it finds, drops some, or sets new ones that lie ahead, and keeps every range. -/

namespace Sys2Proof.Machine

/-! ### The ends of a state -/

/-- The slew end, the lease expiry, and the pulse end of each output line. -/
inductive EndKind where
  | slew
  | lease
  | pulse (o : OutLine)

/-- The local elapsed time of an end, none where there is no such end. -/
def State.stopOf (s : State) : EndKind → Option Nat
  | .slew => s.time.slew.map (·.stop)
  | .lease => s.authority.holder.map (·.expiry)
  | .pulse o => (s.outputs.get o).pulse.map (·.stop)

/-- The ranges that the ends rest on. -/
def InRange (s : State) : Prop := TimeInRange s.time ∧ DurationsInRange s

/-- A point of Common Time in its range (R1). -/
abbrev Point.InRange (a : Point) : Prop := a.sec ≤ maxSeconds ∧ a.ns < nsPerSecond

theorem InRange.now {s : State} (h : InRange s) : s.time.now.InRange := by
  obtain ⟨⟨hsec, hns, -⟩, -⟩ := h
  exact ⟨hsec, hns⟩

theorem InRange.frac {s : State} (h : InRange s) : s.time.frac < unitsPerNs := by
  obtain ⟨⟨-, -, hfrac, -⟩, -⟩ := h
  exact hfrac

theorem InRange.elapsed {s : State} (h : InRange s) : s.time.elapsed < elapsedModulus := by
  obtain ⟨⟨-, -, -, -, -, helapsed, -⟩, -⟩ := h
  exact helapsed

theorem InRange.periods {s : State} (h : InRange s) : s.time.periods ≤ periodsPerTick := by
  obtain ⟨⟨-, -, -, -, -, -, hperiods⟩, -⟩ := h
  exact hperiods

theorem OutLine.mem_all (o : OutLine) : o ∈ OutLine.all := by
  cases o <;> decide

theorem endsAhead_iff {s : State} : EndsAhead s ↔ ∀ k, ∀ stop ∈ s.stopOf k, EndAhead s.time stop := by
  constructor
  · rintro ⟨hslew, hlease, hpulse⟩ k stop hk
    cases k with
    | slew => obtain ⟨x, hx, rfl⟩ := Option.map_eq_some_iff.1 hk; exact hslew x hx
    | lease => obtain ⟨x, hx, rfl⟩ := Option.map_eq_some_iff.1 hk; exact hlease x hx
    | pulse o => obtain ⟨x, hx, rfl⟩ := Option.map_eq_some_iff.1 hk; exact hpulse o (OutLine.mem_all o) x hx
  · intro h
    exact ⟨fun x hx => h .slew _ (Option.map_eq_some_iff.2 ⟨x, hx, rfl⟩),
      fun x hx => h .lease _ (Option.map_eq_some_iff.2 ⟨x, hx, rfl⟩),
      fun o _ x hx => h (.pulse o) _ (Option.map_eq_some_iff.2 ⟨x, hx, rfl⟩)⟩

theorem noEndPassed_iff {s : State} :
    NoEndPassed s ↔ InRange s ∧ ∀ k, ∀ stop ∈ s.stopOf k, EndAhead s.time stop := by
  rw [← endsAhead_iff]
  exact and_assoc.symm

/-- An end newly set: at most 10^9 µs ahead, the longest slew. -/
def Fresh (t : TimeBase) (stop : Nat) : Prop :=
  ∃ us, 1 ≤ us ∧ us ≤ 1000000000 ∧ stop = endAfter t.elapsed us

theorem Fresh.distance {t : TimeBase} {stop : Nat} (ht : t.elapsed < elapsedModulus) (h : Fresh t stop) :
    1 ≤ distance t.elapsed stop ∧ distance t.elapsed stop ≤ 1000000000 := by
  obtain ⟨us, h1, h2, rfl⟩ := h
  rw [distance_endAfter ht (by unfold elapsedModulus; omega)]
  exact ⟨h1, h2⟩

theorem Fresh.endAhead {t : TimeBase} {stop : Nat} (ht : t.elapsed < elapsedModulus) (h : Fresh t stop) :
    EndAhead t stop := by
  obtain ⟨h1, h2⟩ := h.distance ht
  exact ⟨by omega, fun _ => by omega⟩

/-- A pulse's end is counted with an outstanding tick taken (log entry 10), and lies ahead all the same. -/
theorem fresh_pulse (t : TimeBase) {w : Nat} (h1 : 1 ≤ w) (h2 : w ≤ 1000000) :
    Fresh t (endAfter t.settle.elapsed w) := by
  unfold TimeBase.settle
  split
  · refine ⟨w + 1, by omega, by omega, ?_⟩
    simp only [endAfter, TimeBase.tick, Nat.mod_add_mod]
    congr 1
    omega
  · exact ⟨w, h1, by omega, rfl⟩

/-! ### What an operation does to the ends -/

/-- From a state in range, `t` is in range, its local elapsed time is that of `s`, and each of its ends
is an end of `s` or newly set. -/
structure Renews (s t : State) : Prop where
  of_inRange : InRange s → InRange t ∧ t.time.elapsed = s.time.elapsed ∧
    t.time.periods = s.time.periods ∧ ∀ k, ∀ stop ∈ t.stopOf k, stop ∈ s.stopOf k ∨ Fresh s.time stop

theorem Renews.refl (s : State) : Renews s s := ⟨fun h => ⟨h, rfl, rfl, fun _ _ hk => .inl hk⟩⟩

/-- The ranges may be used in showing what becomes of the ends. -/
theorem Renews.of_imp {s t : State} (h : InRange s → Renews s t) : Renews s t :=
  ⟨fun hs => (h hs).of_inRange hs⟩

theorem Renews.trans {a b c : State} (h : Renews a b) (k : Renews b c) : Renews a c := by
  constructor
  intro ha
  obtain ⟨hb, he, hp, hends⟩ := h.of_inRange ha
  obtain ⟨hc, he', hp', hends'⟩ := k.of_inRange hb
  refine ⟨hc, he'.trans he, hp'.trans hp, fun n stop hn => ?_⟩
  rcases hends' n stop hn with hold | ⟨us, h1, h2, hstop⟩
  · exact hends n stop hold
  · exact .inr ⟨us, h1, h2, by rw [hstop, he]⟩

theorem renews_foldl {α : Type} {f : State → α → State} (h : ∀ s x, Renews s (f s x)) (l : List α)
    (s : State) : Renews s (l.foldl f s) := by
  induction l generalizing s with
  | nil => exact .refl s
  | cons x l ih => exact (h s x).trans (ih (f s x))

/-- What keeps times, authority, entries and outputs keeps every end. -/
theorem renews_of_eq {s t : State} (ht : t.time = s.time) (ha : t.authority = s.authority)
    (hr : t.calendar.records = s.calendar.records) (ho : t.outputs = s.outputs) : Renews s t := by
  constructor
  intro h
  refine ⟨?_, by rw [ht], by rw [ht], fun k stop hk => .inl ?_⟩
  · unfold InRange DurationsInRange at *
    rwa [ht, ha, hr]
  · cases k <;> simpa only [State.stopOf, ht, ha, ho] using hk

/-- No promise is broken by what renews ends. -/
theorem Renews.noEndPassed {s t : State} (h : Renews s t) (hs : NoEndPassed s) : NoEndPassed t := by
  obtain ⟨hrange, hends⟩ := noEndPassed_iff.1 hs
  obtain ⟨hrange', he, hp, hends'⟩ := h.of_inRange hrange
  refine noEndPassed_iff.2 ⟨hrange', fun k stop hk => ?_⟩
  have hahead : EndAhead s.time stop := by
    rcases hends' k stop hk with hold | hnew
    · exact hends k stop hold
    · exact hnew.endAhead hrange.elapsed
  simpa only [EndAhead, he, hp] using hahead

/-! ### One part of the state replaced -/

theorem renews_time {s : State} {t : TimeBase} (he : t.elapsed = s.time.elapsed)
    (hp : t.periods = s.time.periods) (hr : TimeInRange s.time → TimeInRange t)
    (hs : ∀ x ∈ t.slew, x ∈ s.time.slew ∨ Fresh s.time x.stop) : Renews s { s with time := t } := by
  constructor
  rintro ⟨ht, hd⟩
  refine ⟨⟨hr ht, hd⟩, he, hp, fun k stop hk => ?_⟩
  cases k with
  | slew =>
    obtain ⟨x, hx, rfl⟩ := Option.map_eq_some_iff.1 hk
    exact (hs x hx).imp_left fun hold => Option.map_eq_some_iff.2 ⟨x, hold, rfl⟩
  | lease => exact .inl hk
  | pulse o => exact .inl hk

theorem renews_authority {s : State} {a : Authority}
    (hw : (∀ w ∈ s.authority.waiters, leaseInRange w.lease) → ∀ w ∈ a.waiters, leaseInRange w.lease)
    (hh : InRange s → ∀ h ∈ a.holder,
      leaseInRange h.lease ∧ (h ∈ s.authority.holder ∨ Fresh s.time h.expiry)) :
    Renews s { s with authority := a } := by
  constructor
  rintro ⟨ht, hd⟩
  have hnew := hh ⟨ht, hd⟩
  obtain ⟨-, hwaiters, hentries⟩ := hd
  refine ⟨⟨ht, fun h hm => (hnew h hm).1, hw hwaiters, hentries⟩, rfl, rfl, fun k stop hk => ?_⟩
  cases k with
  | slew => exact .inl hk
  | lease =>
    obtain ⟨x, hx, rfl⟩ := Option.map_eq_some_iff.1 hk
    exact (hnew x hx).2.imp_left fun hold => Option.map_eq_some_iff.2 ⟨x, hold, rfl⟩
  | pulse o => exact .inl hk

/-- Every PULSE that an entry keeps has a width in range. -/
abbrev Calendar.PulsesInRange (c : Calendar) : Prop :=
  ∀ i : RecordNo, c.records[i].content.pulseInRange = true

theorem InRange.pulsesInRange {s : State} (h : InRange s) : s.calendar.PulsesInRange := by
  obtain ⟨-, -, -, hentries⟩ := h
  exact hentries

theorem renews_calendar {s : State} {c : Calendar} (h : s.calendar.PulsesInRange → c.PulsesInRange) :
    Renews s { s with calendar := c } := by
  constructor
  rintro ⟨ht, hh, hw, hentries⟩
  exact ⟨⟨ht, hh, hw, h hentries⟩, rfl, rfl, fun k _ hk => .inl (by cases k <;> exact hk)⟩

theorem renews_putOut {s : State} (o : OutLine) {x : OutStage}
    (h : InRange s → ∀ pl ∈ x.pulse, pl ∈ (s.outputs.get o).pulse ∨ Fresh s.time pl.stop) :
    Renews s (s.putOut o x) := by
  constructor
  intro hs
  refine ⟨hs, rfl, rfl, fun k stop hk => ?_⟩
  cases k with
  | slew => exact .inl hk
  | lease => exact .inl hk
  | pulse q =>
    by_cases hq : q = o
    · subst hq
      simp only [State.stopOf, State.putOut_outputs, PerOut.get_put] at hk ⊢
      obtain ⟨pl, hpl, rfl⟩ := Option.map_eq_some_iff.1 hk
      exact (h hs pl hpl).imp_left fun hold => Option.map_eq_some_iff.2 ⟨pl, hold, rfl⟩
    · left
      simpa only [State.stopOf, State.putOut_outputs, PerOut.get_put_of_ne _ _ hq] using hk

/-! ### Reports and references -/

theorem renews_report (p : Port) (cause : Stamp) (b : ReportBody) (s : State) :
    Renews s (report p cause b s) :=
  renews_of_eq (by simp) (by simp) (by simp) (by simp)

theorem renews_reportNow (p : Port) (b : ReportBody) (s : State) : Renews s (reportNow p b s) :=
  renews_report _ _ _ _

theorem renews_reportHolder (b : ReportBody) (s : State) : Renews s (reportHolder b s) :=
  renews_of_eq (by simp) (by simp) (by simp) (by simp)

theorem renews_store (s : State) (st : Store) : Renews s { s with store := st } :=
  renews_of_eq rfl rfl rfl rfl

theorem renews_putPort (s : State) (p : Port) (x : HostPort) : Renews s (s.putPort p x) :=
  renews_of_eq rfl rfl rfl rfl

theorem renews_putInbox (s : State) (p : Port) (x : Inbox) : Renews s (s.putInbox p x) :=
  renews_of_eq rfl rfl rfl rfl

theorem renews_putReports (s : State) (p : Port) (x : ReportQueue) : Renews s (s.putReports p x) :=
  renews_of_eq rfl rfl rfl rfl

theorem renews_events (s : State) (x : EventUnit) : Renews s { s with events := x } :=
  renews_of_eq rfl rfl rfl rfl

/-! ### Entries (R64, R70) -/

theorem Calendar.putRecord_get (c : Calendar) (i j : RecordNo) (x : EntryRecord) :
    (c.putRecord i x).records[j] = if j = i then x else c.records[j] := by
  simp only [Calendar.putRecord, Fin.getElem_fin, Vector.getElem_set, Fin.ext_iff, eq_comm]

theorem Calendar.PulsesInRange.putRecord {c : Calendar} (h : c.PulsesInRange) (i : RecordNo)
    {x : EntryRecord} (hx : x.content.pulseInRange = true) : (c.putRecord i x).PulsesInRange := by
  intro j
  rw [Calendar.putRecord_get]
  split
  · exact hx
  · exact h j

/-- An ARMED and a FINISHED entry keep the same action. -/
theorem pulseInRange_armed (e : Entry) : (EntryState.armed e).pulseInRange =
    match e.action with
    | .line _ a => a.widthInRange
    | .deliver _ _ => true := rfl

theorem Calendar.PulsesInRange.arm {c : Calendar} (h : c.PulsesInRange) (i : RecordNo) {e : Entry}
    (r : Point) (he : (EntryState.armed e).pulseInRange = true) : (c.arm i e r).PulsesInRange :=
  h.putRecord (x := ⟨_, .armed { e with release := r, sequence := c.nextSequence }⟩) i he

theorem Calendar.PulsesInRange.finish {c : Calendar} (h : c.PulsesInRange) (i : RecordNo) {e : Entry}
    (cause : FinishCause) (he : (EntryState.armed e).pulseInRange = true) :
    (c.finish i e cause).PulsesInRange :=
  h.putRecord (x := ⟨_, .finished e cause⟩) i he

theorem renews_dropEntryReference (e : Entry) (s : State) : Renews s (dropEntryReference e s) := by
  unfold dropEntryReference
  split
  · exact renews_store _ _
  · exact .refl s

theorem renews_finishEntry (i : RecordNo) {e : Entry} (cause : FinishCause) (s : State)
    (he : (EntryState.armed e).pulseInRange = true) : Renews s (finishEntry i e cause s) :=
  (renews_calendar fun h => h.finish i cause he).trans (renews_dropEntryReference e _)

/-! ### Outputs (R134 to R136) -/

/-- An action sets no end but that of a PULSE, which lies its width ahead. -/
theorem OutStage.apply_pulse {now : Nat} {x : OutStage} {a : LineAction} {pl : Pulse}
    (h : (x.apply now a).pulse = some pl) : ∃ w, a = .pulse w ∧ pl.stop = endAfter now w := by
  cases a with
  | turnOn => simp [OutStage.apply] at h
  | turnOff => simp [OutStage.apply] at h
  | toggle => cases hp : x.pulse <;> simp [OutStage.apply, hp] at h
  | pulse w =>
    refine ⟨w, rfl, ?_⟩
    cases hp : x.pulse <;> simp only [OutStage.apply, hp, Option.some.injEq] at h <;> rw [← h]

theorem renews_applyAction (o : OutLine) {a : LineAction} (s : State) (ha : a.widthInRange = true) :
    Renews s (applyAction o a s) := by
  refine renews_putOut o fun _ pl hpl => .inr ?_
  obtain ⟨w, rfl, hstop⟩ := OutStage.apply_pulse hpl
  obtain ⟨h1, h2⟩ : 1 ≤ w ∧ w ≤ 1000000 := by simpa [LineAction.widthInRange] using ha
  rw [hstop]
  exact fresh_pulse s.time h1 h2

theorem renews_pulseEnd (o : OutLine) (s : State) : Renews s (pulseEnd o s) := by
  unfold pulseEnd
  split
  · split
    · exact renews_putOut o fun _ _ hpl => by simp at hpl
    · exact .refl s
  · exact .refl s

/-! ### Releases (R73, R74) -/

theorem renews_handOn (o : Occurrence) {e : Entry} (s : State)
    (he : (EntryState.armed e).pulseInRange = true) : Renews s (handOn o e.action s).1 := by
  rw [pulseInRange_armed] at he
  cases ha : e.action with
  | deliver ts h => apply renews_of_eq <;> simp [handOn]
  | line out act =>
    rw [ha] at he
    by_cases h : s.events.outOwner.get out = some o.owner
    · rw [handOn_line_driven act h]; exact renews_applyAction out s he
    · rw [handOn_line_refused act h]; exact renews_reportNow _ _ s

theorem renews_reportRelease (e : Entry) (o : Occurrence) (x : ReleaseOutcome) (s : State) :
    Renews s (reportRelease e o x s) := by
  unfold reportRelease
  split
  · exact renews_reportNow _ _ s
  · exact .refl s

theorem renews_settleFate (i : RecordNo) (h : Handle) {e : Entry} (fate : Fate) (s : State)
    (he : (EntryState.armed e).pulseInRange = true) : Renews s (settleFate i h e fate s) := by
  cases fate with
  | rearm next => exact renews_calendar fun hc => hc.arm i next he
  | finish cause => exact (renews_finishEntry i cause s he).trans (renews_reportNow _ _ _)

theorem renews_releaseEntry (late : Bool) (s : State) (i : RecordNo) : Renews s (releaseEntry late s i) := by
  refine .of_imp fun hs => ?_
  have hi := hs.pulsesInRange i
  unfold releaseEntry
  split
  · rename_i e hcontent
    rw [hcontent] at hi
    exact ((renews_handOn _ s hi).trans (renews_reportRelease _ _ _ _)).trans
      (renews_settleFate _ _ _ _ hi)
  · exact .refl s

theorem renews_releaseDue (late : Bool) (s : State) : Renews s (releaseDue late s) :=
  renews_foldl (renews_releaseEntry late) _ s

theorem renews_releaseIfRunning (late : Bool) (s : State) : Renews s (releaseIfRunning late s) := by
  unfold releaseIfRunning
  split
  · exact renews_releaseDue late s
  · exact .refl s

theorem renews_resume (s : State) : Renews s (resume s) := by
  by_cases h : s.running
  · rw [resume_running h]; exact .refl s
  · rw [resume_held h]
    have hrunning : Renews s { s with calendar := { s.calendar with releaseState := .running } } :=
      renews_calendar fun hc => hc
    exact hrunning.trans (renews_releaseDue true _)

/-! ### Time changes and slews (R10, R18) -/

theorem renews_reportTimeChange (old new : Point) (epoch : Byte) (cause : ChangeCause) (s : State) :
    Renews s (reportTimeChange old new epoch cause s) := by
  rw [reportTimeChange_eq]
  exact renews_of_eq rfl rfl rfl rfl

theorem renews_changeTime {new : Point} {frac : Nat} (ts : TimeState) (cause : ChangeCause) (s : State)
    (hnew : InRange s → new.InRange) (hfrac : InRange s → frac < unitsPerNs) :
    Renews s (changeTime new frac ts cause s) := by
  refine .of_imp fun hs => ?_
  have hset : Renews s { s with
      time := { s.time with epoch := s.time.epoch + 1, now := new, frac := frac, timeState := ts } } :=
    renews_time rfl rfl
      (fun ⟨_, _, _, hrest⟩ => ⟨(hnew hs).1, (hnew hs).2, hfrac hs, hrest⟩) fun _ hx => .inl hx
  exact (hset.trans (renews_reportTimeChange _ _ _ _ _)).trans (renews_releaseIfRunning true _)

/-- Common Time moved within its range, with no time change. -/
theorem renews_commonTime {new : Point} {frac : Nat} (s : State) (hnew : new.InRange)
    (hfrac : frac < unitsPerNs) :
    Renews s { s with time := { s.time with now := new, frac := frac } } :=
  renews_time rfl rfl (fun ⟨_, _, _, hrest⟩ => ⟨hnew.1, hnew.2, hfrac, hrest⟩) fun _ hx => .inl hx

theorem renews_slewOff (s : State) : Renews s { s with time := { s.time with slew := none } } := by
  refine renews_time rfl rfl (fun ht => ?_) fun _ hx => by simp at hx
  obtain ⟨h1, h2, h3, h4, -, h6, h7⟩ := ht
  exact ⟨h1, h2, h3, h4, fun _ hx => by simp at hx, h6, h7⟩

theorem renews_endSlew (cause : SlewCause) (s : State) : Renews s (endSlew cause s) := by
  unfold endSlew
  split
  · exact .refl s
  · exact (renews_slewOff s).trans (renews_reportHolder _ _)

theorem renews_slewEnd (s : State) : Renews s (slewEnd s) := by
  unfold slewEnd
  split
  · split
    · exact renews_endSlew _ s
    · exact .refl s
  · exact .refl s

/-! ### The authority (R24, R33, R34) -/

theorem fresh_lease (t : TimeBase) {ms : Nat} (h : leaseInRange ms) :
    Fresh t (leaseExpiryFrom t.elapsed ms) := by
  obtain ⟨hlow, hhigh⟩ := h
  exact ⟨ms * 1000, by omega, by omega, rfl⟩

theorem renews_grant (p : Port) {ms : Nat} (s : State) (h : InRange s → leaseInRange ms) :
    Renews s (grant p ms s) := by
  refine renews_authority (fun hw => hw) fun hs x hx => ?_
  obtain rfl : ⟨p, ms, leaseExpiryFrom s.time.elapsed ms⟩ = x := by simpa using hx
  exact ⟨h hs, .inr (fresh_lease s.time (h hs))⟩

theorem InRange.lease {s : State} (h : InRange s) {x : Holder} (hx : x ∈ s.authority.holder) :
    leaseInRange x.lease := by
  obtain ⟨-, hholder, -⟩ := h
  exact hholder x hx

theorem InRange.waiter {s : State} (h : InRange s) {w : Waiter} (hw : w ∈ s.authority.waiters) :
    leaseInRange w.lease := by
  obtain ⟨-, -, hwaiters, -⟩ := h
  exact hwaiters w hw

/-- The waiter queue replaced by one with no other leases. -/
theorem renews_waiters {s : State} {ws : List Waiter}
    (h : InRange s → ∀ w ∈ ws, leaseInRange w.lease) :
    Renews s { s with authority := { s.authority with waiters := ws } } :=
  .of_imp fun hs => renews_authority (fun _ => h hs) fun hs _ hx => ⟨hs.lease hx, .inl hx⟩

theorem renews_dropWaiter (p : Port) (s : State) : Renews s (dropWaiter p s) :=
  renews_waiters fun hs _ hw => hs.waiter (List.mem_filter.1 hw).1

theorem renews_handover (former : Port) (cause : LossCause) (s : State) :
    Renews s (handover former cause s) := by
  refine .of_imp fun hs => ?_
  unfold handover
  split
  · exact .refl s
  · rename_i w rest hw
    have hwaiter : ∀ x ∈ w :: rest, leaseInRange x.lease := fun x hx => hs.waiter (hw ▸ hx)
    have htail : Renews s { s with authority := { s.authority with waiters := rest } } :=
      renews_waiters fun _ x hx => hwaiter x (List.mem_cons_of_mem _ hx)
    exact (htail.trans (renews_grant w.port _ fun _ => hwaiter w (List.mem_cons_self ..))).trans
      (renews_reportNow _ _ _)

theorem renews_cancelArming (cause : CancelCause) (s : State) : Renews s (cancelArming cause s) := by
  unfold cancelArming
  split
  · exact .refl s
  · exact (renews_events s _).trans (renews_reportNow _ _ _)

theorem renews_reportLoss (h : Holder) (cause : LossCause) (s : State) : Renews s (reportLoss h cause s) := by
  unfold reportLoss
  split
  · exact renews_reportNow _ _ s
  · exact .refl s

theorem renews_vacated (s : State) : Renews s { s with authority := { s.authority with holder := none } } :=
  renews_authority (fun hw => hw) fun _ _ hx => by simp at hx

/-- The loss of the authority from its second step on, the holder gone (R33). -/
theorem renews_lossAfterVacancy (h : Holder) (cause : LossCause) (s : State) :
    Renews { s with authority := { s.authority with holder := none } } (loseAuthority h cause s) :=
  (((renews_reportLoss h cause _).trans (renews_cancelArming _ _)).trans (renews_resume _)).trans
    (renews_handover _ _ _)

theorem renews_loseAuthority (h : Holder) (cause : LossCause) (s : State) :
    Renews s (loseAuthority h cause s) :=
  (renews_vacated s).trans (renews_lossAfterVacancy h cause s)

theorem renews_leaseExpiry (s : State) : Renews s (leaseExpiry s) := by
  unfold leaseExpiry
  split
  · split
    · exact renews_loseAuthority _ _ s
    · exact .refl s
  · exact .refl s

end Sys2Proof.Machine

/-! What each command and event does to the ends in local elapsed time (R8): it renews them. -/

namespace Sys2Proof.Machine

@[simp] theorem okay_state (s : State) (payload : List Byte) : (okay s payload).state = s := rfl

/-! ### Commands of the Time Base -/

theorem natOfBytes_foldl_lt (bs : List Byte) (n : Nat) :
    bs.foldl (fun n b => n * 256 + b.toNat) n < (n + 1) * 256 ^ bs.length := by
  induction bs generalizing n with
  | nil => simp
  | cons b rest ih =>
    have hb : b.toNat < 256 := b.isLt
    calc rest.foldl (fun n b => n * 256 + b.toNat) (n * 256 + b.toNat)
        < (n * 256 + b.toNat + 1) * 256 ^ rest.length := ih _
      _ ≤ ((n + 1) * 256) * 256 ^ rest.length := Nat.mul_le_mul_right _ (by omega)
      _ = (n + 1) * 256 ^ (b :: rest).length := by rw [List.length_cons, Nat.pow_succ]; ring

/-- A field of so many bytes holds no number that needs more (R173). -/
theorem field_lt (ps : List Byte) (offset width : Nat) : field ps offset width < 256 ^ width := by
  have hlen : ((ps.drop offset).take width).length ≤ width := List.length_take_le ..
  calc field ps offset width
      < (0 + 1) * 256 ^ ((ps.drop offset).take width).length := natOfBytes_foldl_lt _ 0
    _ ≤ 256 ^ width := by rw [Nat.zero_add, Nat.one_mul]; exact Nat.pow_le_pow_right (by omega) hlen

theorem pointField_inRange {ps : List Byte} {offset : Nat} (h : ¬ 999999999 < (pointField ps offset).ns) :
    (pointField ps offset).InRange := by
  have hsec : (pointField ps offset).sec < 256 ^ 4 := field_lt ps offset 4
  unfold Point.InRange maxSeconds nsPerSecond
  omega

theorem Point.ofNs_ns_lt (n : Nat) : (Point.ofNs n).ns < nsPerSecond := Nat.mod_lt _ (by decide)

theorem steppedTime_inRange {now offset new : Point} {back : Bool} (hnow : now.InRange)
    (h : steppedTime now back offset = .ok new) : new.InRange := by
  obtain ⟨hsec, hns⟩ := hnow
  unfold steppedTime at h
  split_ifs at h with hrange hback hle hlate
  · cases h
    refine ⟨?_, Point.ofNs_ns_lt _⟩
    unfold Point.minus Point.ofNs Point.toNs maxSeconds nsPerSecond at *
    dsimp only
    omega
  · cases h
    exact ⟨Nat.le_of_not_lt hlate, Point.ofNs_ns_lt _⟩

theorem renews_loadTime (p : Port) (ps : List Byte) (s : State) : Renews s (loadTime p ps s).state := by
  unfold loadTime
  dsimp only
  split
  · exact .refl s
  · rename_i hns
    rw [okay_state]
    exact (renews_endSlew _ s).trans
      (renews_changeTime _ _ _ (fun _ => pointField_inRange hns) fun _ => by decide)

theorem renews_stepTime (p : Port) (ps : List Byte) (s : State) : Renews s (stepTime p ps s).state := by
  unfold stepTime
  split
  · exact .refl s
  · split
    · exact .refl s
    · rename_i new hnew
      rw [okay_state]
      exact renews_changeTime _ _ _ (fun hs => steppedTime_inRange hs.now hnew) fun hs => hs.frac

theorem renews_setRate (p : Port) (ps : List Byte) (s : State) : Renews s (setRate p ps s).state := by
  unfold setRate
  split
  · rename_i hr
    refine renews_time rfl rfl (fun ht => ?_) fun _ hx => .inl hx
    obtain ⟨hsec, hns, hfrac, -, hrest⟩ := ht
    exact ⟨hsec, hns, hfrac, hr, hrest⟩
  · exact .refl s

/-- A slew begun with a rate in range and an end newly set. -/
theorem renews_slewOn {x : Slew} {s : State} (hr : rateInRange x.rate) (hx : Fresh s.time x.stop) :
    Renews s { s with time := { s.time with slew := some x } } := by
  refine renews_time rfl rfl (fun ht => ?_) fun y hy => .inr ?_
  · obtain ⟨hsec, hns, hfrac, hbase, -, hrest⟩ := ht
    exact ⟨hsec, hns, hfrac, hbase, fun y hy => Option.some.inj hy ▸ hr, hrest⟩
  · exact Option.some.inj hy ▸ hx

@[simp] theorem endSlew_elapsed (cause : SlewCause) (s : State) :
    (endSlew cause s).time.elapsed = s.time.elapsed := by
  unfold endSlew
  split <;> simp

theorem renews_startSlew (p : Port) (ps : List Byte) (s : State) : Renews s (startSlew p ps s).state := by
  unfold startSlew
  dsimp only
  split
  · exact .refl s
  · rename_i hr
    split
    · exact .refl s
    · rename_i hd
      refine (renews_endSlew .replaced s).trans (renews_slewOn (not_not.1 hr) ?_)
      exact ⟨field ps 4 4 * 1000, by omega, by omega, by rw [endSlew_elapsed]⟩

theorem renews_stopSlew (p : Port) (ps : List Byte) (s : State) : Renews s (stopSlew p ps s).state := by
  unfold stopSlew
  split
  · exact .refl s
  · exact renews_slewOff s

/-! ### Commands of the Time Authority -/

theorem renews_claimAuthority (p : Port) (ps : List Byte) (s : State) :
    Renews s (claimAuthority p ps s).state := by
  unfold claimAuthority
  dsimp only
  split
  · exact .refl s
  · rename_i hlease
    have hlease : leaseInRange (field ps 0 2) := not_not.1 hlease
    split
    · exact renews_grant p s fun _ => hlease
    · split
      · exact renews_grant p s fun _ => hlease
      · split
        · exact .refl s
        · refine renews_waiters fun hs w hw => ?_
          rcases List.mem_append.1 hw with hold | hnew
          · exact hs.waiter hold
          · rw [List.mem_singleton.1 hnew]; exact hlease

/-- The holder's commands do what their rule does, or refuse. -/
theorem renews_asHolder {p : Port} {s : State} {body : Holder → Reply}
    (h : ∀ x, s.authority.holder = some x → Renews s (body x).state) :
    Renews s (asHolder p s body).state := by
  unfold asHolder
  split
  · rename_i x hx
    split
    · exact h x hx
    · exact .refl s
  · exact .refl s

theorem renews_renewAuthority (p : Port) (ps : List Byte) (s : State) :
    Renews s (renewAuthority p ps s).state :=
  renews_asHolder fun _ hx => renews_grant p s fun hs => hs.lease hx

theorem renews_releaseAuthority (p : Port) (ps : List Byte) (s : State) :
    Renews s (releaseAuthority p ps s).state :=
  renews_asHolder fun h _ => renews_loseAuthority h _ s

theorem renews_withdrawClaim (p : Port) (ps : List Byte) (s : State) :
    Renews s (withdrawClaim p ps s).state := by
  unfold withdrawClaim
  split
  · exact .refl s
  · exact renews_dropWaiter p s

/-! ### Commands of the Message Store -/

theorem renews_openDraft (p : Port) (ps : List Byte) (s : State) : Renews s (openDraft p ps s).state := by
  unfold openDraft
  split
  · exact .refl s
  · split
    · exact .refl s
    · exact renews_store s _

theorem renews_append (p : Port) (ps : List Byte) (s : State) : Renews s (append p ps s).state := by
  unfold append
  dsimp only
  split
  · exact .refl s
  · split
    · exact .refl s
    · split
      · exact .refl s
      · split
        · exact .refl s
        · split
          · exact .refl s
          · exact renews_store s _

theorem renews_abandonDraft (p : Port) (ps : List Byte) (s : State) :
    Renews s (abandonDraft p ps s).state := by
  unfold abandonDraft
  split
  · exact .refl s
  · split
    · exact .refl s
    · exact renews_store s _

theorem renews_setQuota (p : Port) (ps : List Byte) (s : State) : Renews s (setQuota p ps s).state := by
  unfold setQuota
  dsimp only
  split
  · exact .refl s
  · split
    · exact .refl s
    · split
      · exact .refl s
      · exact (renews_store s _).trans (renews_reportNow _ _ _)

/-! ### Commands of the Calendar -/

theorem renews_releaseIfDue (late : Bool) (i : RecordNo) (r : Point) (s : State) :
    Renews s (releaseIfDue late i r s) := by
  unfold releaseIfDue
  split
  · exact renews_releaseEntry late s i
  · exact .refl s

theorem renews_takeEntryReference (a : EntryAction) (s : State) : Renews s (takeEntryReference a s) := by
  cases a with
  | deliver ts h => exact renews_store s _
  | line o act => exact .refl s

/-- The first and the last check of Table 4-2's step 5 let no PULSE through with a width out of range. -/
theorem pulseInRange_of_scheduleFieldChecks {p : Port} {ps : List Byte} {late : Bool} {action : EntryAction}
    (hchecks : scheduleFieldChecks ps late = none) (haction : entryActionField ps = some action) :
    (EntryState.armed (scheduledEntry p ps action)).pulseInRange = true := by
  have hrows := firstFailing_eq_none.1 hchecks
  simp only [List.mem_cons, List.not_mem_nil, or_false, forall_eq_or_imp, forall_eq] at hrows
  obtain ⟨hkind, -, -, -, -, -, -, -, hwidth⟩ := hrows
  rw [pulseInRange_armed]
  unfold entryActionField at haction
  split at haction
  · split at haction
    · cases haction; rfl
    · cases haction
  · rename_i hdeliver
    have hline : kindLine ps = true := by simp_all
    split at haction
    · rename_i out a hout ha
      cases haction
      simpa [scheduledEntry, hline, ha] using hwidth
    · cases haction

theorem renews_carryOutAdmission (i : RecordNo) (rest : List RecordNo) {e : Entry} (r : Point) (late : Bool)
    (s : State) (he : (EntryState.armed e).pulseInRange = true) :
    Renews s (carryOutAdmission i rest e r late s).state := by
  have hadmit : Renews s { s with calendar := s.calendar.take i rest e r } :=
    renews_calendar fun hc => Calendar.PulsesInRange.arm (hc.putRecord i rfl) i r he
  exact (hadmit.trans (renews_takeEntryReference _ _)).trans (renews_releaseIfDue _ _ _ _)

theorem renews_schedule {p : Port} {ps : List Byte} {b : Bool} (r : Point) (late : Bool) (s : State)
    (hchecks : scheduleFieldChecks ps b = none) : Renews s (schedule p ps r late s).state := by
  unfold schedule
  split
  · rename_i haction
    exact renews_carryOutAdmission _ _ _ _ s (pulseInRange_of_scheduleFieldChecks hchecks haction)
  · exact .refl s

theorem renews_scheduleAt (p : Port) (ps : List Byte) (s : State) : Renews s (scheduleAt p ps s).state := by
  unfold scheduleAt
  dsimp only
  split
  · exact .refl s
  · rename_i hchecks
    split
    · exact .refl s
    · split
      · exact .refl s
      · split
        · exact .refl s
        · exact renews_schedule _ _ s hchecks

theorem renews_scheduleAfter (p : Port) (ps : List Byte) (s : State) :
    Renews s (scheduleAfter p ps s).state := by
  unfold scheduleAfter
  dsimp only
  split
  · exact .refl s
  · rename_i hchecks
    split
    · exact .refl s
    · split
      · exact .refl s
      · exact renews_schedule _ _ s hchecks

/-- RETIME and CANCEL on an ARMED entry: its PULSE is in range, as every entry's is. -/
theorem renews_onArmed {p : Port} {h : Handle} {s : State} {body : Entry → Reply}
    (hbody : ∀ e, (EntryState.armed e).pulseInRange = true → Renews s (body e).state) :
    Renews s (onArmed p h s body).state := by
  refine .of_imp fun hs => ?_
  have hpulse := hs.pulsesInRange h.record
  unfold onArmed
  split
  · exact .refl s
  · rename_i e hnamed
    obtain ⟨-, hcontent⟩ := Calendar.named_eq_some.1 hnamed
    split
    · exact .refl s
    · split
      · exact .refl s
      · rename_i hnot
        rcases hcontent with harmed | ⟨why, hfinished⟩
        · rw [harmed] at hpulse
          exact hbody e hpulse
        · exact absurd hfinished (hnot e why)

theorem renews_arm (i : RecordNo) {e : Entry} (r : Point) (s : State)
    (he : (EntryState.armed e).pulseInRange = true) :
    Renews s { s with calendar := s.calendar.arm i e r } :=
  renews_calendar fun hc => hc.arm i r he

theorem renews_retime (p : Port) (ps : List Byte) (s : State) : Renews s (retime p ps s).state := by
  unfold retime
  dsimp only
  split
  · exact .refl s
  · split
    · exact .refl s
    · split
      · exact .refl s
      · refine renews_onArmed fun e he => ?_
        split
        · exact .refl s
        · exact (renews_arm _ _ s he).trans (renews_releaseIfDue _ _ _ _)

theorem renews_cancel (p : Port) (ps : List Byte) (s : State) : Renews s (cancel p ps s).state := by
  unfold cancel
  split
  · exact .refl s
  · exact renews_onArmed fun _ he => renews_finishEntry _ _ s he

theorem renews_queryEntry (p : Port) (ps : List Byte) (s : State) : Renews s (queryEntry p ps s).state := by
  unfold queryEntry
  split
  · exact .refl s
  · split <;> exact .refl s

theorem renews_holdReleases (p : Port) (ps : List Byte) (s : State) : Renews s (holdReleases p ps s).state :=
  renews_calendar fun hc => hc

/-! ### Commands of the Delivery Unit -/

theorem renews_fetchHead (p : Port) (ps : List Byte) (s : State) : Renews s (fetchHead p ps s).state := by
  unfold fetchHead
  split <;> exact .refl s

theorem renews_readPayload (p : Port) (ps : List Byte) (s : State) : Renews s (readPayload p ps s).state := by
  unfold readPayload
  dsimp only
  split
  · exact .refl s
  · split
    · exact .refl s
    · split
      · exact .refl s
      · split <;> exact .refl s

theorem renews_removeHead (p : Port) (s : State) : Renews s (removeHead p s) := by
  unfold removeHead
  split
  · exact .refl s
  · exact (renews_putInbox s p _).trans (renews_store _ _)

theorem renews_flush (p : Port) (s : State) : Renews s (flush p s) := by
  rw [flush_eq]
  exact renews_of_eq rfl rfl rfl rfl

theorem renews_discardHead (p : Port) (ps : List Byte) (s : State) : Renews s (discardHead p ps s).state := by
  unfold discardHead
  split
  · exact .refl s
  · exact renews_removeHead p s

theorem renews_setInbox (p : Port) (ps : List Byte) (s : State) : Renews s (setInbox p ps s).state := by
  unfold setInbox
  dsimp only
  split
  · exact renews_putInbox s p _
  · exact .refl s

/-! ### Commands on lines -/

/-- A line driven to a level with no pulse in flight has no end. -/
theorem renews_putOut_level (o : OutLine) (level : Level) (s : State) : Renews s (s.putOut o ⟨level, none⟩) :=
  renews_putOut o fun _ _ hpl => by simp at hpl

theorem renews_claim {p : Port} {line : Line} {s : State} {granted : Reply} (h : Renews s granted.state) :
    Renews s (claim p line s granted).state := by
  unfold claim
  split
  · exact h
  · split <;> exact .refl s

theorem renews_claimLine (p : Port) (ps : List Byte) (s : State) : Renews s (claimLine p ps s).state := by
  unfold claimLine
  dsimp only
  split
  · exact .refl s
  · split
    · exact .refl s
    · exact renews_claim (renews_events s _)
  · split
    · exact .refl s
    · exact renews_claim ((renews_events s _).trans (renews_putOut_level _ _ _))

theorem renews_releaseEventLine (l : EvLine) (s : State) : Renews s (releaseEventLine l s) := by
  have hcancel : Renews s (cancelArmingOn l s) := by
    unfold cancelArmingOn
    split
    · split
      · exact renews_cancelArming _ s
      · exact .refl s
    · exact .refl s
  exact hcancel.trans (renews_events _ _)

theorem renews_releaseOf (line : Line) (s : State) : Renews s (releaseOf line s) := by
  cases line with
  | event l => exact renews_releaseEventLine l s
  | output o => exact (renews_putOut_level o .low s).trans (renews_events _ _)

theorem renews_releaseLine (p : Port) (ps : List Byte) (s : State) : Renews s (releaseLine p ps s).state := by
  unfold releaseLine
  split
  · exact .refl s
  · split
    · exact .refl s
    · exact renews_releaseOf _ s

theorem renews_takeCapture (p : Port) (ps : List Byte) (s : State) : Renews s (takeCapture p ps s).state := by
  unfold takeCapture
  split
  · exact .refl s
  · dsimp only
    split
    · exact .refl s
    · split
      · exact .refl s
      · exact renews_events s _

theorem renews_armAlign (p : Port) (ps : List Byte) (s : State) : Renews s (armAlign p ps s).state := by
  unfold armAlign
  dsimp only
  split
  · split
    · exact .refl s
    · exact renews_events s _
  · exact .refl s

theorem renews_disarmAlign (p : Port) (ps : List Byte) (s : State) : Renews s (disarmAlign p ps s).state := by
  unfold disarmAlign
  split
  · exact .refl s
  · exact renews_events s _

theorem renews_driveLine (p : Port) (ps : List Byte) (s : State) : Renews s (driveLine p ps s).state := by
  unfold driveLine
  split
  · exact .refl s
  · split
    · exact .refl s
    · split
      · exact .refl s
      · rename_i hwidth
        split
        · exact .refl s
        · exact renews_applyAction _ s (by simpa using hwidth)

/-! ### Commands of the Report Queues and the Host Ports -/

theorem renews_takeReport (p : Port) (ps : List Byte) (s : State) : Renews s (takeReport p ps s).state := by
  unfold takeReport
  split
  · exact .refl s
  · exact renews_putReports s p _

theorem renews_setReportMask (p : Port) (ps : List Byte) (s : State) :
    Renews s (setReportMask p ps s).state := by
  unfold setReportMask
  dsimp only
  split
  · exact .refl s
  · exact renews_putReports s p _

theorem renews_attach (p : Port) (ps : List Byte) (s : State) : Renews s (attach p ps s).state := by
  unfold attach
  dsimp only
  split
  · exact .refl s
  · exact renews_putPort s p _

theorem renews_endEntry (p : Port) (s : State) (i : RecordNo) : Renews s (endEntry p s i) := by
  refine .of_imp fun hs => ?_
  have hi := hs.pulsesInRange i
  unfold endEntry
  split
  · rename_i e hcontent
    rw [hcontent] at hi
    split
    · exact renews_finishEntry i _ s hi
    · exact .refl s
  · exact .refl s

theorem renews_endAuthority (p : Port) (s : State) : Renews s (endAuthority p s) := by
  unfold endAuthority
  split
  · split
    · exact renews_loseAuthority _ _ s
    · exact renews_dropWaiter p s
  · exact renews_dropWaiter p s

theorem renews_endClaims (p : Port) (s : State) : Renews s (endClaims p s) := by
  refine renews_foldl (fun s line => ?_) _ s
  split
  · exact renews_releaseOf line s
  · exact .refl s

theorem renews_endInbox (p : Port) (s : State) : Renews s (endInbox p s) :=
  (renews_flush p s).trans (renews_putInbox _ p _)

theorem renews_endPort (p : Port) (s : State) : Renews s (endPort p s) := renews_of_eq rfl rfl rfl rfl

/-- The end of a session, through the parts of Table 9-2. -/
theorem renews_endSession (p : Port) (s : State) : Renews s (endSession p s) := by
  have hdeparting : Renews s { s with departing := some p } := renews_of_eq rfl rfl rfl rfl
  unfold endSession
  dsimp only
  refine .trans ?_ (renews_endPort p _)
  refine .trans ?_ (renews_putReports _ p _)
  refine .trans ?_ (renews_endInbox p _)
  refine .trans ?_ (renews_endClaims p _)
  refine .trans ?_ (renews_store _ _)
  refine .trans ?_ (renews_endAuthority p _)
  exact hdeparting.trans (renews_foldl (renews_endEntry p) _ _)

/-! ### Edges (R115 to R125) -/

theorem renews_capture (l : EvLine) (owner : Port) (stamp : Stamp) (pol : Polarity) (s : State) :
    Renews s (capture l owner stamp pol s) := by
  unfold capture
  dsimp only
  split
  · exact (renews_events s _).trans (renews_report _ _ _ _)
  · exact renews_events s _

theorem maxPoint_inRange : maxPoint.InRange := by
  simp [Point.InRange, maxPoint, maxSeconds, nsPerSecond]

theorem Point.atOrBefore.sec_le {a b : Point} (h : a.atOrBefore b) : a.sec ≤ b.sec := by
  unfold Point.atOrBefore at h
  omega

theorem alignValue_inRange (target : Point) (compensation : Nat) :
    (alignValue target compensation).InRange := by
  by_cases h : (Point.ofNs (target.toNs + compensation)).atOrBefore maxPoint
  · have hvalue : alignValue target compensation = .ofNs (target.toNs + compensation) := if_pos h
    rw [hvalue]
    exact ⟨h.sec_le.trans maxPoint_inRange.1, Point.ofNs_ns_lt _⟩
  · have hvalue : alignValue target compensation = maxPoint := if_neg h
    rw [hvalue]
    exact maxPoint_inRange

theorem renews_alignStep {value : Point} (s : State) (h : value.InRange) : Renews s (alignStep value s) := by
  unfold alignStep
  exact renews_changeTime _ _ s (fun _ => h) fun _ => by decide

theorem renews_stepEdge (a : Arming) (compensation : Nat) (t : Stamp) (stored : Bool) (s : State) :
    Renews s (stepEdge a compensation t stored s) := by
  have hended : Renews s (s.putArming none) := renews_events s _
  unfold stepEdge
  dsimp only
  split
  · exact hended.trans (renews_reportNow _ _ _)
  · exact (hended.trans (renews_alignStep _ (alignValue_inRange _ _))).trans (renews_reportNow _ _ _)

theorem renews_alignEdge (l : EvLine) (compensation : Nat) (t : Stamp) (pol : Polarity) (stored : Bool)
    (s : State) : Renews s (alignEdge l compensation t pol stored s) := by
  unfold alignEdge
  split
  · exact .refl s
  · split
    · split
      · exact renews_stepEdge _ _ _ _ s
      · exact renews_report _ _ _ s
    · exact .refl s

theorem renews_recognizedEdge (l : EvLine) (level : Level) (s : State) :
    Renews s (recognizedEdge l level s) := by
  have hlevel : Renews s (s.putLine l { s.events.lines.get l with level := level }) := renews_events s _
  unfold recognizedEdge
  dsimp only
  split
  · exact hlevel
  · split
    · exact (hlevel.trans (renews_capture _ _ _ _ _)).trans (renews_alignEdge _ _ _ _ _ _)
    · exact hlevel

end Sys2Proof.Machine

/-! No end is ever passed (R8): the tick brings each end one microsecond nearer, and the advance finds none
reached. -/

namespace Sys2Proof.Machine

/-! ### The execution event of a command -/

theorem renews_complete (p : Port) (tag : Byte) (d o : Bool) (r : Reply) :
    Renews r.state (complete p tag d o r) :=
  renews_putPort r.state p _

theorem renews_gate {row : CommandRow} {p : Port} {ps : List Byte} {f : State → Reply} {s : State}
    (h : Renews s (f s).state) : Renews s (gate row p ps f s).state := by
  unfold gate
  split
  · exact .refl s
  · split
    · exact .refl s
    · split
      · exact .refl s
      · exact h

/-- The tick brings an end that is not reached one microsecond nearer. -/
theorem distance_tick {now stop : Nat} (h : distance now stop ≠ 0) (hnow : now < elapsedModulus) :
    distance ((now + 1) % elapsedModulus) stop = distance now stop - 1 := by
  unfold distance elapsedModulus at *
  omega

theorem timeInRange_settle {t : TimeBase} (h : TimeInRange t) : TimeInRange t.settle := by
  obtain ⟨hsec, hns, hfrac, hbase, hslew, helapsed, hperiods⟩ := h
  unfold TimeBase.settle
  split
  · exact ⟨hsec, hns, hfrac, hbase, hslew, Nat.mod_lt _ (by decide), (Nat.sub_le ..).trans hperiods⟩
  · exact ⟨hsec, hns, hfrac, hbase, hslew, helapsed, hperiods⟩

theorem noEndPassed_settleTick {s : State} (hs : NoEndPassed s) : NoEndPassed s.settleTick := by
  by_cases hp : s.time.periods < periodsPerTick
  · rwa [State.settleTick_eq_self hp]
  obtain ⟨⟨htime, hdurations⟩, hends⟩ := noEndPassed_iff.1 hs
  obtain ⟨-, -, -, -, -, helapsed, hperiods⟩ := id htime
  have htick : s.time.settle = s.time.tick := if_pos (Nat.le_of_not_lt hp)
  refine noEndPassed_iff.2 ⟨⟨timeInRange_settle htime, hdurations⟩, fun k stop hk => ?_⟩
  have hold : stop ∈ s.stopOf k := by
    cases k with
    | slew => simpa only [State.stopOf, State.settleTick_time, TimeBase.settle_slew] using hk
    | lease => exact hk
    | pulse o => exact hk
  obtain ⟨hnear, hnot⟩ := hends k stop hold
  have hnearer := distance_tick (hnot (by unfold periodsPerTick at hp; omega)) helapsed
  rw [State.settleTick_time, htick]
  refine ⟨?_, fun hpos => absurd hpos ?_⟩
  · change distance ((s.time.elapsed + 1) % elapsedModulus) stop < _
    omega
  · change ¬ 0 < s.time.periods - periodsPerTick
    omega

theorem execution_noEndPassed {row : CommandRow} {body : Port → List Byte → State → Reply} {p : Port}
    {s t : State} (hbody : ∀ ps u, Renews u (body p ps u).state) (hs : NoEndPassed s)
    (h : execution row body p s = .next t) : NoEndPassed t := by
  rcases execution_cases h with ⟨c, d, o, -, -, rfl⟩ | ⟨-, rfl⟩
  · have hgate := renews_gate (row := row) (p := p) (ps := c.params) (hbody c.params s.settleTick)
    exact (hgate.trans (renews_complete _ _ _ _ _)).noEndPassed (noEndPassed_settleTick hs)
  · exact hs

/-! ### Ends taken before time moves on -/

/-- The end is not reached, or there is none. -/
def State.NotDue (s : State) (k : EndKind) : Prop := ∀ stop ∈ s.stopOf k, distance s.time.elapsed stop ≠ 0

theorem Renews.notDue {s t : State} {k : EndKind} (h : Renews s t) (hs : InRange s) (hk : s.NotDue k) :
    t.NotDue k := by
  intro stop hstop
  obtain ⟨-, he, -, hends⟩ := h.of_inRange hs
  rw [he]
  rcases hends k stop hstop with hold | hnew
  · exact hk stop hold
  · obtain ⟨hahead, -⟩ := hnew.distance hs.elapsed
    omega

/-- The number that `takeEnd` has for an end; the lease expiry has none. -/
def EndKind.number : EndKind → Nat
  | .slew => 0
  | .pulse .out0 => 1
  | .pulse .out1 => 2
  | .pulse .out2 => 3
  | .pulse .out3 => 4
  | .lease => 5

theorem slewEnd_notDue (s : State) : (slewEnd s).NotDue .slew := by
  intro stop hstop
  obtain ⟨x, hx, rfl⟩ := Option.map_eq_some_iff.1 hstop
  unfold slewEnd at hx ⊢
  split at hx
  · rename_i y hy
    split at hx
    · rw [endSlew_some _ hy] at hx
      simp at hx
    · rename_i hnot
      rw [if_neg hnot]
      rw [hy] at hx
      exact Option.some.inj hx ▸ hnot
  · rename_i hnone
    rw [hnone] at hx
    cases hx

theorem pulseEnd_notDue (o : OutLine) (s : State) : (pulseEnd o s).NotDue (.pulse o) := by
  intro stop hstop
  obtain ⟨pl, hpl, rfl⟩ := Option.map_eq_some_iff.1 hstop
  rw [pulseEnd_eq] at hpl ⊢
  simp only [PerOut.get_put] at hpl ⊢
  split at hpl
  · rename_i x hx
    split at hpl
    · cases hpl
    · rename_i hnot
      rw [hx] at hpl
      exact Option.some.inj hpl ▸ hnot
  · rename_i hnone
    rw [hnone] at hpl
    cases hpl

theorem takeEnd_notDue {k : EndKind} (s : State) (hk : k ≠ .lease) : (takeEnd k.number s).NotDue k := by
  cases k with
  | slew => exact slewEnd_notDue s
  | lease => exact absurd rfl hk
  | pulse o => cases o <;> exact pulseEnd_notDue _ s

theorem renews_takeEnd (n : Nat) (s : State) : Renews s (takeEnd n s) := by
  unfold takeEnd
  split
  · exact renews_slewEnd s
  · exact renews_pulseEnd _ s
  · exact renews_pulseEnd _ s
  · exact renews_pulseEnd _ s
  · exact renews_pulseEnd _ s
  · exact .refl s

theorem renews_takeEnds (l : List Nat) (s : State) : Renews s (l.foldl (fun s k => takeEnd k s) s) :=
  renews_foldl (fun s k => renews_takeEnd k s) l s

/-- An end that is among those taken, or was not reached before, is not reached after. -/
theorem notDue_takeEnds {k : EndKind} {l : List Nat} {s : State} (hs : InRange s)
    (h : k ≠ .lease ∧ k.number ∈ l ∨ s.NotDue k) : (l.foldl (fun s k => takeEnd k s) s).NotDue k := by
  induction l generalizing s with
  | nil => exact h.resolve_left fun hmem => List.not_mem_nil hmem.2
  | cons n rest ih =>
    have hnext := renews_takeEnd n s
    refine ih (hnext.of_inRange hs).1 ?_
    rcases h with ⟨hk, hmem⟩ | hnot
    · rcases List.mem_cons.1 hmem with hhead | htail
      · exact .inr (hhead ▸ takeEnd_notDue s hk)
      · exact .inl ⟨hk, htail⟩
    · exact .inr (hnext.notDue hs hnot)

/-- After a loss of the authority the lease in force is a new one, or there is none. -/
theorem loseAuthority_notDue {h : Holder} {cause : LossCause} {s : State} (hs : InRange s) :
    (loseAuthority h cause s).NotDue .lease := by
  have hvacant := renews_vacated s
  exact (renews_lossAfterVacancy h cause s).notDue (hvacant.of_inRange hs).1 fun _ hstop => by cases hstop

theorem leaseExpiry_notDue {s : State} (hs : InRange s) : (leaseExpiry s).NotDue .lease := by
  unfold leaseExpiry
  split
  · rename_i h hh
    split
    · exact loseAuthority_notDue hs
    · rename_i hnot
      intro stop hstop
      simp only [State.stopOf, hh, Option.map_some, Option.mem_some_iff] at hstop
      exact hstop ▸ hnot
  · rename_i hnone
    intro stop hstop
    simp [State.stopOf, hnone] at hstop

theorem EndKind.number_mem (k : EndKind) (hk : k ≠ .lease) : k.number ∈ endNumbers := by
  cases k with
  | slew => decide
  | lease => exact absurd rfl hk
  | pulse o => cases o <;> decide

theorem renews_takeDueEnds (s : State) : Renews s (takeDueEnds s) := by
  have hdrawn : Renews s { s with draws := s.draws + 1 } := renews_of_eq rfl rfl rfl rfl
  unfold takeDueEnds
  split
  · exact ((hdrawn.trans (renews_takeEnds _ _)).trans (renews_leaseExpiry _)).trans (renews_takeEnds _ _)
  · exact renews_takeEnds _ s

/-- Before a period of REFCLK every end that is reached has been taken (log entry 16). -/
theorem takeDueEnds_notDue {s : State} (hs : InRange s) (k : EndKind) : (takeDueEnds s).NotDue k := by
  have hdrawn : Renews s { s with draws := s.draws + 1 } := renews_of_eq rfl rfl rfl rfl
  unfold takeDueEnds
  split
  · have hbefore := hdrawn.trans
      (renews_takeEnds (endNumbers.filter fun k => Config.endBeforeLease s.draws k) _)
    have hexpiry := hbefore.trans (renews_leaseExpiry _)
    refine notDue_takeEnds (hexpiry.of_inRange hs).1 ?_
    by_cases hk : k = .lease
    · exact .inr (hk ▸ leaseExpiry_notDue (hbefore.of_inRange hs).1)
    · by_cases hfirst : Config.endBeforeLease s.draws k.number = true
      · have htaken := notDue_takeEnds (hdrawn.of_inRange hs).1
          (.inl ⟨hk, List.mem_filter.2 ⟨k.number_mem hk, hfirst⟩⟩)
        exact .inr ((renews_leaseExpiry _).notDue (hbefore.of_inRange hs).1 htaken)
      · exact .inl ⟨hk, List.mem_filter.2 ⟨k.number_mem hk, by simpa using hfirst⟩⟩
  · rename_i hlease
    refine notDue_takeEnds hs ?_
    by_cases hk : k = .lease
    · subst hk
      refine .inr fun stop hstop hzero => hlease ?_
      obtain ⟨h, hh, rfl⟩ := Option.map_eq_some_iff.1 hstop
      exact leaseDue_iff.2 ⟨h, hh, hzero⟩
    · exact .inl ⟨hk, k.number_mem hk⟩

/-! ### The advance (R4) -/

theorem slewRate_inRange {t : TimeBase} (h : TimeInRange t) : rateInRange t.slewRate := by
  obtain ⟨-, -, -, -, hslew, -⟩ := h
  unfold TimeBase.slewRate
  cases hx : t.slew with
  | none => simp [rateInRange]
  | some x => exact hslew x hx

/-- The increment of an advance is positive, and less than 11 ns (R4 to R6). -/
theorem increment_bounds {t : TimeBase} (h : TimeInRange t) :
    0 < t.increment ∧ t.increment < 47244640256 := by
  obtain ⟨hslew, hslew'⟩ := slewRate_inRange h
  obtain ⟨-, -, -, ⟨hbase, hbase'⟩, -⟩ := h
  unfold TimeBase.increment nominalIncrement
  omega

/-- An advance carries at most once into the seconds (R4). -/
theorem advancedPoint_ns_lt {t : TimeBase} (h : TimeInRange t) : t.advancedPoint.ns < nsPerSecond := by
  obtain ⟨hpos, hlt⟩ := increment_bounds h
  obtain ⟨-, hns, hfrac, -⟩ := h
  have hunits : t.advancedUnits / unitsPerNs < 12 := by
    unfold TimeBase.advancedUnits unitsPerNs at *
    omega
  unfold TimeBase.advancedPoint
  split
  · assumption
  · dsimp only
    unfold TimeBase.advancedNs nsPerSecond at *
    omega

/-- One more period of REFCLK counted since the last tick. -/
def countPeriod (s : State) : State := { s with time := { s.time with periods := s.time.periods + 1 } }

/-- An advance past the last second is a time change to the start of the scale (R9). -/
theorem advance_wraps {s : State} (h : maxSeconds < s.time.advancedPoint.sec) :
    advance s = changeTime ⟨0, s.time.advancedPoint.ns⟩ (s.time.advancedUnits % unitsPerNs) s.time.timeState
      .wrap (countPeriod s) := if_pos h

/-- Any other advance moves Common Time and releases on time what it reaches (R4, R73). -/
theorem advance_moves {s : State} (h : s.time.advancedPoint.sec ≤ maxSeconds) :
    advance s = releaseIfRunning false { countPeriod s with
      time := { (countPeriod s).time with
        now := s.time.advancedPoint, frac := s.time.advancedUnits % unitsPerNs } } :=
  if_neg (Nat.not_lt.2 h)

/-- One more period counted, while no tick is outstanding and no end reached. -/
theorem noEndPassed_countPeriod {s : State} (hs : NoEndPassed s) (hp : s.time.periods < periodsPerTick)
    (hdue : ∀ k, s.NotDue k) :
    NoEndPassed (countPeriod s) := by
  obtain ⟨⟨⟨hsec, hns, hfrac, hbase, hslew, helapsed, -⟩, hdurations⟩, hends⟩ := noEndPassed_iff.1 hs
  refine noEndPassed_iff.2 ⟨⟨⟨hsec, hns, hfrac, hbase, hslew, helapsed, hp⟩, hdurations⟩, fun k stop hk => ?_⟩
  have hold : stop ∈ s.stopOf k := by cases k <;> exact hk
  exact ⟨(hends k stop hold).1, fun _ => hdue k stop hold⟩

theorem noEndPassed_advance {s : State} (hs : NoEndPassed s) (hp : s.time.periods < periodsPerTick)
    (hdue : ∀ k, s.NotDue k) : NoEndPassed (advance s) := by
  have hcounted := noEndPassed_countPeriod hs hp hdue
  have hns := advancedPoint_ns_lt hs.1
  have hfrac : s.time.advancedUnits % unitsPerNs < unitsPerNs := Nat.mod_lt _ (by decide)
  by_cases hsec : maxSeconds < s.time.advancedPoint.sec
  · have hwrapped : Renews (countPeriod s) (changeTime ⟨0, s.time.advancedPoint.ns⟩
        (s.time.advancedUnits % unitsPerNs) s.time.timeState .wrap (countPeriod s)) :=
      renews_changeTime _ _ _ (fun _ => ⟨Nat.zero_le _, hns⟩) fun _ => hfrac
    rw [advance_wraps hsec]
    exact hwrapped.noEndPassed hcounted
  · have hle := Nat.le_of_not_lt hsec
    rw [advance_moves hle]
    exact ((renews_commonTime (countPeriod s) ⟨hle, hns⟩ hfrac).trans
      (renews_releaseIfRunning _ _)).noEndPassed hcounted

theorem noEndPassed_refclkAdvance {s t : State} (hs : NoEndPassed s) (h : execRefclkAdvance s = .next t) :
    NoEndPassed t := by
  unfold execRefclkAdvance at h
  split at h
  · exact Host.Outcome.next.inj h ▸ hs
  · rw [← Host.Outcome.next.inj h]
    have hsettled := noEndPassed_settleTick hs
    have hrange := (noEndPassed_iff.1 hsettled).1
    have htaken := renews_takeDueEnds s.settleTick
    obtain ⟨-, -, hperiods, -⟩ := htaken.of_inRange hrange
    refine noEndPassed_advance (htaken.noEndPassed hsettled) ?_ (takeDueEnds_notDue hrange)
    rw [hperiods]
    exact TimeBase.settle_periods (noEndPassed_iff.1 hs).1.periods

/-! ### Events -/

theorem noEndPassed_commandWrite {p : Port} {x : Transaction} {s t : State} (hs : NoEndPassed s)
    (h : execCommandWrite p x s = .next t) : NoEndPassed t := by
  unfold execCommandWrite at h
  split at h
  · split at h <;> exact Host.Outcome.next.inj h ▸ (renews_putPort s p _).noEndPassed hs
  · exact Host.Outcome.next.inj h ▸ (renews_putPort s p _).noEndPassed hs

theorem noEndPassed_responseRead {p : Port} {x : Transaction} {s t : State} (hs : NoEndPassed s)
    (h : execResponseRead p x s = .next t) : NoEndPassed t := by
  unfold execResponseRead at h
  split at h
  · split at h <;> exact Host.Outcome.next.inj h ▸ (renews_putPort s p _).noEndPassed hs
  · exact Host.Outcome.next.inj h ▸ (renews_putPort s p _).noEndPassed hs

theorem noEndPassed_unknownCommand {p : Port} {s t : State} (hs : NoEndPassed s)
    (h : execUnknownCommand p s = .next t) : NoEndPassed t := by
  unfold execUnknownCommand at h
  split at h
  · split at h
    · exact Host.Outcome.next.inj h ▸ hs
    · exact Host.Outcome.next.inj h ▸ (renews_complete _ _ _ _ _).noEndPassed (noEndPassed_settleTick hs)
  · exact Host.Outcome.next.inj h ▸ hs

theorem noEndPassed_edgeRecognized {l : EvLine} {level : Level} {held : Nat} {s t : State}
    (hs : NoEndPassed s) (h : execEdgeRecognized l level held s = .next t) : NoEndPassed t := by
  unfold execEdgeRecognized at h
  split at h
  · exact Host.Outcome.next.inj h ▸ (renews_recognizedEdge _ _ _).noEndPassed (noEndPassed_settleTick hs)
  · exact Host.Outcome.next.inj h ▸ hs

theorem noEndPassed_portReset {p : Port} {s t : State} (hs : NoEndPassed s)
    (h : execPortReset p s = .next t) : NoEndPassed t := by
  have hreset : NoEndPassed (assertPortReset p s.settleTick) :=
    (renews_putPort _ p _).noEndPassed (noEndPassed_settleTick hs)
  unfold execPortReset at h
  dsimp only at h
  split at h
  · exact Host.Outcome.next.inj h ▸ (renews_endSession p _).noEndPassed hreset
  · exact Host.Outcome.next.inj h ▸ hreset

theorem noEndPassed_resetNegation {pins : PerEv Level} {s t : State} (hs : NoEndPassed s)
    (h : execResetNegation pins s = .next t) : NoEndPassed t := by
  unfold execResetNegation at h
  split at h
  · have hkept : Renews s t := Host.Outcome.next.inj h ▸ renews_of_eq rfl rfl rfl rfl
    exact hkept.noEndPassed hs
  · exact Host.Outcome.next.inj h ▸ hs


theorem noEndPassed_deviceReset (s : State) : NoEndPassed (deviceReset s) := by
  refine noEndPassed_iff.2 ⟨⟨?_, ?_, ?_, ?_⟩, fun k stop hk => ?_⟩
  · change TimeInRange TimeBase.reset
    decide
  · intro h hh; cases hh
  · intro w hw; cases hw
  · intro i
    simp [deviceReset, State.reset, Calendar.reset, EntryState.pulseInRange, EntryState.entry?]
  · cases k with
    | slew => cases hk
    | lease => cases hk
    | pulse o => cases o <;> cases hk

/-! ### The step -/

theorem exec_noEndPassed {i : Instr} {s t : State} (hs : NoEndPassed s) (h : exec i s = .next t) :
    NoEndPassed t := by
  have settled := noEndPassed_settleTick hs
  cases i with
  | commandWrite p x => exact noEndPassed_commandWrite hs h
  | responseRead p x => exact noEndPassed_responseRead hs h
  | unknownCommand p => exact noEndPassed_unknownCommand hs h
  | readTime p => exact execution_noEndPassed (fun _ u => .refl u) hs h
  | loadTime p => exact execution_noEndPassed (renews_loadTime p) hs h
  | stepTime p => exact execution_noEndPassed (renews_stepTime p) hs h
  | setRate p => exact execution_noEndPassed (renews_setRate p) hs h
  | startSlew p => exact execution_noEndPassed (renews_startSlew p) hs h
  | stopSlew p => exact execution_noEndPassed (renews_stopSlew p) hs h
  | refclkAdvance => exact noEndPassed_refclkAdvance hs h
  | elapsedTick => exact Host.Outcome.next.inj h ▸ settled
  | slewEnd => exact Host.Outcome.next.inj h ▸ (renews_slewEnd _).noEndPassed settled
  | claimAuthority p => exact execution_noEndPassed (renews_claimAuthority p) hs h
  | renewAuthority p => exact execution_noEndPassed (renews_renewAuthority p) hs h
  | releaseAuthority p => exact execution_noEndPassed (renews_releaseAuthority p) hs h
  | withdrawClaim p => exact execution_noEndPassed (renews_withdrawClaim p) hs h
  | leaseExpiry => exact Host.Outcome.next.inj h ▸ (renews_leaseExpiry _).noEndPassed settled
  | openDraft p => exact execution_noEndPassed (renews_openDraft p) hs h
  | append p => exact execution_noEndPassed (renews_append p) hs h
  | abandonDraft p => exact execution_noEndPassed (renews_abandonDraft p) hs h
  | setQuota p => exact execution_noEndPassed (renews_setQuota p) hs h
  | scheduleAt p => exact execution_noEndPassed (renews_scheduleAt p) hs h
  | scheduleAfter p => exact execution_noEndPassed (renews_scheduleAfter p) hs h
  | retime p => exact execution_noEndPassed (renews_retime p) hs h
  | cancel p => exact execution_noEndPassed (renews_cancel p) hs h
  | queryEntry p => exact execution_noEndPassed (renews_queryEntry p) hs h
  | holdReleases p => exact execution_noEndPassed (renews_holdReleases p) hs h
  | resumeReleases p => exact execution_noEndPassed (fun _ u => renews_resume u) hs h
  | fetchHead p => exact execution_noEndPassed (renews_fetchHead p) hs h
  | readPayload p => exact execution_noEndPassed (renews_readPayload p) hs h
  | discardHead p => exact execution_noEndPassed (renews_discardHead p) hs h
  | flushInbox p => exact execution_noEndPassed (fun _ u => renews_flush p u) hs h
  | setInbox p => exact execution_noEndPassed (renews_setInbox p) hs h
  | claimLine p => exact execution_noEndPassed (renews_claimLine p) hs h
  | releaseLine p => exact execution_noEndPassed (renews_releaseLine p) hs h
  | queryLines p => exact execution_noEndPassed (fun _ u => .refl u) hs h
  | takeCapture p => exact execution_noEndPassed (renews_takeCapture p) hs h
  | armAlign p => exact execution_noEndPassed (renews_armAlign p) hs h
  | disarmAlign p => exact execution_noEndPassed (renews_disarmAlign p) hs h
  | edgeRecognized l level held => exact noEndPassed_edgeRecognized hs h
  | driveLine p => exact execution_noEndPassed (renews_driveLine p) hs h
  | pulseEnd o => exact Host.Outcome.next.inj h ▸ (renews_pulseEnd o _).noEndPassed settled
  | takeReport p => exact execution_noEndPassed (renews_takeReport p) hs h
  | setReportMask p => exact execution_noEndPassed (renews_setReportMask p) hs h
  | attach p => exact execution_noEndPassed (renews_attach p) hs h
  | detach p => exact execution_noEndPassed (fun _ u => renews_endSession p u) hs h
  | status p => exact execution_noEndPassed (fun _ u => .refl u) hs h
  | portReset p => exact noEndPassed_portReset hs h
  | deviceReset => exact Host.Outcome.next.inj h ▸ noEndPassed_deviceReset s
  | resetNegation pins => exact noEndPassed_resetNegation hs h
  | portResetNegation p => exact Host.Outcome.next.inj h ▸ (renews_putPort s p _).noEndPassed hs

/-- Settles O54: every operation renews the ends or leaves them (`Renews`), the tick brings an end that is
not reached one microsecond nearer, and before an advance every end reached has been taken. -/
theorem noEndIsEverPassed : Obligations.NoEndIsEverPassed := by
  intro s t hs h
  unfold step at h
  split at h
  · exact Host.Outcome.next.inj h ▸ hs
  · rename_i i rest _
    have hrest : Renews s { s with pending := rest } := renews_of_eq rfl rfl rfl rfl
    exact exec_noEndPassed (hrest.noEndPassed hs) h

end Sys2Proof.Machine

/-! The commands of the Time Base (R12 to R17) and the outstanding tick (log entry 5). -/

namespace Sys2Proof.Machine

open Claims

/-! ### Carrying out a command -/

/-- Each row of Table 10-6 is the execution event of one rule. -/
theorem exec_of_rowOf {i : Instr} {p : Port} {row : CommandRow} (h : rowOf i = some (p, row)) :
    ∃ body : Port → List Byte → State → Reply, ∀ s, exec i s = execution row body p s := by
  cases i <;> simp only [rowOf, Option.some.injEq, Prod.mk.injEq, reduceCtorEq] at h <;>
    obtain ⟨rfl, rfl⟩ := h <;> exact ⟨_, fun _ => rfl⟩

/-- A command that passes the checks before its own rule is answered as its rule has it. -/
theorem execution_of_executes {row : CommandRow} {body : Port → List Byte → State → Reply} {p : Port}
    {c : Command} {d o : Bool} {s : State} (h : Executes row p c d o s) :
    execution row body p s = .next (complete p c.tag d o (body p c.params s.settleTick)) := by
  obtain ⟨hslot, hcode, hsession, hholder, hlength⟩ := h
  exact execution_of_passes hslot hcode hsession hholder hlength

/-- The same with no tick outstanding. -/
theorem execution_of_executes_settled {row : CommandRow} {body : Port → List Byte → State → Reply} {p : Port}
    {c : Command} {d o : Bool} {s : State} (h : Executes row p c d o s) (hp : s.time.periods < 100) :
    execution row body p s = .next (complete p c.tag d o (body p c.params s)) := by
  rw [execution_of_executes h, State.settleTick_eq_self hp]

/-! ### The outstanding tick -/

theorem settleTick_of_periods {s : State} (h : 100 ≤ s.time.periods) :
    s.settleTick = { s with time := { s.time with
      elapsed := (s.time.elapsed + 1) % 281474976710656, periods := s.time.periods - 100 } } := by
  have hsettle : s.time.settle = s.time.tick := if_pos h
  simp only [State.settleTick, hsettle]
  rfl

/-- A command's event takes the outstanding tick itself, so it may as well be taken before. -/
theorem execution_settleTick {row : CommandRow} {body : Port → List Byte → State → Reply} {p : Port}
    {c : Command} {d o : Bool} {s : State} (h : Pends p c d o s) (hc : c.code = row.code)
    (hp : s.time.periods ≤ 100) : execution row body p s = execution row body p s.settleTick := by
  rw [execution_of_pending h hc, execution_of_pending (s := s.settleTick) h hc,
    State.settleTick_settleTick hp]

theorem execRefclkAdvance_of_negated {s : State} (h : s.resetAsserted = false) :
    execRefclkAdvance s = .next (advance (takeDueEnds s.settleTick)) :=
  if_neg (by simp [h])

theorem execEdgeRecognized_of_edge {l : EvLine} {level : Level} {held : Nat} {s : State}
    (hreset : s.resetAsserted = false) (hlevel : level ≠ (s.events.lines.get l).level) (hheld : 30 ≤ held) :
    execEdgeRecognized l level held s = .next (recognizedEdge l level s.settleTick) :=
  if_pos ⟨hreset, hlevel, hheld⟩

/-- Settles O11: each of these events is a function of the state with the tick taken, and taking it twice is
taking it once. -/
theorem outstandingTickTakenFirst : Obligations.OutstandingTickTakenFirst := by
  intro s hp u
  have htwice : u.settleTick = u := State.settleTick_settleTick hp
  refine ⟨fun h => State.settleTick_eq_self h, fun h => ?_, ?_, ?_, ?_⟩
  · simpa only [h] using settleTick_of_periods (s := s) h.ge
  · intro i p row c d o hrow hpends hcode
    obtain ⟨body, hbody⟩ := exec_of_rowOf hrow
    rw [hbody, hbody]
    exact execution_settleTick hpends hcode hp
  · rintro i (rfl | rfl | ⟨o, rfl⟩ | ⟨p, rfl⟩ | ⟨hreset, rfl⟩)
    · exact congrArg (fun v => Host.Outcome.next (slewEnd v)) htwice.symm
    · exact congrArg (fun v => Host.Outcome.next (leaseExpiry v)) htwice.symm
    · exact congrArg (fun v => Host.Outcome.next (pulseEnd o v)) htwice.symm
    · change execPortReset p s = execPortReset p u
      unfold execPortReset
      rw [htwice]
      rfl
    · change execRefclkAdvance s = execRefclkAdvance u
      rw [execRefclkAdvance_of_negated hreset, execRefclkAdvance_of_negated (s := u) hreset, htwice]
  · intro l level held hreset hheld hlevel
    change execEdgeRecognized l level held s = execEdgeRecognized l level held u
    rw [execEdgeRecognized_of_edge hreset hlevel hheld,
      execEdgeRecognized_of_edge (s := u) hreset hlevel hheld, htwice]

/-- Settles O29: ELAPSED_TICK is the outstanding tick, and nothing without one. -/
theorem elapsedTickCountsMicroseconds : Obligations.ElapsedTickCountsMicroseconds := by
  intro s
  refine ⟨fun h => ?_, fun h => ?_⟩
  · exact congrArg Host.Outcome.next (settleTick_of_periods h)
  · exact congrArg Host.Outcome.next (State.settleTick_eq_self h)

/-! ### What a time change and a slew's end come to -/

theorem Undisturbed.keptByReleases {u t : State} (h : Undisturbed u t) : KeptByReleases u t :=
  ⟨h.time, h.authority, h.events, h.ports, h.resetAsserted, h.departing, h.draws, h.pending, h.pool, h.quota,
    h.releaseState⟩

theorem released_releaseIfRunning (late : Bool) (w : State) : Released late w (releaseIfRunning late w) :=
  ⟨rfl, (releaseIfRunning_undisturbed late w).keptByReleases⟩

theorem timeChange_changeTime (u : State) (new : Point) (frac : Nat) (ts : TimeState) (cause : ChangeCause) :
    TimeChange u new frac ts cause (changeTime new frac ts cause u) := by
  let moved : State :=
    { u with time := { u.time with epoch := u.time.epoch + 1, now := new, frac := frac, timeState := ts } }
  let w := reportTimeChange u.time.now new (u.time.epoch + 1) cause moved
  have hoffered := reportTimeChange_get u.time.now new (u.time.epoch + 1) cause moved
  have hreleased : Released true w (releaseIfRunning true w) := released_releaseIfRunning true w
  have hchange : changeTime new frac ts cause u = releaseIfRunning true w := changeTime_eq _ _ _ _ _
  rw [hchange]
  exact ⟨w, reportTimeChange_eq _ _ _ _ moved, hoffered, hreleased⟩

theorem reportHolder_of_holder {s : State} {h : Holder} (b : ReportBody) (hh : s.authority.holder = some h) :
    reportHolder b s = report h.port s.stamp b s := by
  unfold reportHolder
  rw [hh]
  rfl

theorem reportHolder_of_vacant {s : State} (b : ReportBody) (hh : s.authority.holder = none) :
    reportHolder b s = s := by
  unfold reportHolder
  rw [hh]

/-- A report for the holder changes nothing but report queues. -/
theorem reportHolder_eq (b : ReportBody) (s : State) :
    reportHolder b s = { s with reports := (reportHolder b s).reports } := by
  unfold reportHolder
  split
  · exact report_eq _ _ _ s
  · rfl

/-- A slew ended by the holder's command is reported to that holder. -/
theorem endSlew_of_isHolder {s : State} {p : Port} {x : Slew} (cause : SlewCause) (hp : s.isHolder p)
    (hx : s.time.slew = some x) :
    endSlew cause s = report p s.stamp (.slewDone cause x.rate (distance s.time.elapsed x.stop))
      { s with time := { s.time with slew := none } } := by
  obtain ⟨h, hh, rfl⟩ := Option.map_eq_some_iff.1 hp
  rw [endSlew_some cause hx]
  exact reportHolder_of_holder _ hh

/-! ### READ_TIME, LOAD_TIME and SET_RATE -/

/-- Settles O22: the answer is READ_TIME's own rule at the state with the tick taken, spelled out field by
field. -/
theorem readTimeAnswersBothTimes : Obligations.ReadTimeAnswersBothTimes := by
  intro p c d o s hex u
  refine ⟨?_, fun hp => TimeBase.settle_periods hp⟩
  have hbytes : u.stamp.bytes ++ be 4 u.time.frac ++ [u.time.timeState.code] ++ elapsedBytes u.time.elapsed =
      [u.time.epoch] ++ be 4 u.time.now.sec ++ be 4 u.time.now.ns ++ be 4 u.time.frac ++
        [u.time.timeState.code] ++ be 6 u.time.elapsed := by
    simp [State.stamp, Stamp.bytes, Point.bytes, elapsedBytes]
  rw [← hbytes]
  exact execution_of_executes hex

theorem changePayload_eq (old new : Point) (epoch : Byte) :
    changePayload old new epoch = be 4 old.sec ++ be 4 old.ns ++ be 4 new.sec ++ be 4 new.ns ++ [epoch] := by
  simp [changePayload, Point.bytes]

theorem loadTime_refused {p : Port} {ps : List Byte} {s : State} (h : 999999999 < (pointField ps 0).ns) :
    loadTime p ps s = refuse s .range := if_pos h

theorem loadTime_loaded {p : Port} {ps : List Byte} {s : State} (h : (pointField ps 0).ns ≤ 999999999) :
    loadTime p ps s = okay (changeTime (pointField ps 0) 0 .set .load (endSlew .loaded s))
      (changePayload s.time.now (pointField ps 0) (s.time.epoch + 1)) := if_neg (Nat.not_lt.2 h)

/-- Settles O23: a slew ended, then a time change. -/
theorem loadTimeChangesTime : Obligations.LoadTimeChangesTime := by
  intro p c d o s hex hp new
  have hexec : exec (.loadTime p) s = .next (complete p c.tag d o (loadTime p c.params s)) :=
    execution_of_executes_settled hex hp
  obtain ⟨-, -, -, hholder, -⟩ := hex
  refine ⟨fun h => ?_, fun h => ⟨endSlew .loaded s, _, ?_, endSlew_none _,
    fun x hx => endSlew_of_isHolder _ (hholder rfl) hx, timeChange_changeTime _ _ _ _ _⟩⟩
  · rw [hexec, loadTime_refused h]
    rfl
  · rw [hexec, loadTime_loaded h, changePayload_eq]
    rfl

theorem setRate_refused {p : Port} {ps : List Byte} {s : State}
    (h : rateField ps 0 < -67108864 ∨ 67108864 < rateField ps 0) : setRate p ps s = refuse s .range :=
  if_neg fun hr => by unfold rateInRange at hr; omega

/-- Settles O25: one range check, and one field replaced. -/
theorem setRateReplacesBaseRate : Obligations.SetRateReplacesBaseRate := by
  intro p c d o s hex hp rate t
  have hexec : exec (.setRate p) s = .next (complete p c.tag d o (setRate p c.params s)) :=
    execution_of_executes_settled hex hp
  refine ⟨fun h => ?_, fun hlow hhigh => ⟨?_, rfl⟩⟩
  · rw [hexec, setRate_refused h]
    rfl
  · have hset : setRate p c.params s = okay t (rateBytes s.time.baseRate) := if_pos ⟨hlow, hhigh⟩
    rw [hexec, hset]
    rfl

/-! ### STEP_TIME -/

theorem Point.atOrBefore_iff_toNs_le {a b : Point} (ha : a.ns ≤ 999999999) (hb : b.ns ≤ 999999999) :
    a.atOrBefore b ↔ a.toNs ≤ b.toNs := by
  unfold Point.atOrBefore Point.toNs nsPerSecond
  omega

theorem Point.ofNs_toNs {a : Point} (h : a.ns ≤ 999999999) : Point.ofNs a.toNs = a := by
  obtain ⟨sec, ns⟩ := a
  simp only [Point.ofNs, Point.toNs, nsPerSecond, Point.mk.injEq] at h ⊢
  omega

theorem steppedTime_range {now offset : Point} {back : Bool}
    (h : 2147483647 < offset.sec ∨ 999999999 < offset.ns) : steppedTime now back offset = .error .range :=
  if_pos h

theorem steppedTime_back {now offset : Point} (hsec : offset.sec ≤ 2147483647) (hns : offset.ns ≤ 999999999) :
    steppedTime now true offset =
      if offset.atOrBefore now then .ok (now.minus offset) else .error .range := by
  unfold steppedTime
  rw [if_neg (by omega), if_pos rfl]

theorem steppedTime_forward {now offset : Point} (hsec : offset.sec ≤ 2147483647)
    (hns : offset.ns ≤ 999999999) :
    steppedTime now false offset =
      if maxSeconds < (now.plus offset).sec then .error .range else .ok (now.plus offset) := by
  unfold steppedTime
  rw [if_neg (by omega), if_neg Bool.false_ne_true]

theorem plus_sec (a b : Point) : (a.plus b).sec = (a.toNs + b.toNs) / 1000000000 := rfl

theorem stepTime_badSign {p : Port} {ps : List Byte} {s : State} (h0 : byteField ps 0 ≠ 0)
    (h1 : byteField ps 0 ≠ 1) : stepTime p ps s = refuse s .badParam := by
  have hsign : stepSignOf (byteField ps 0) = none := by
    unfold stepSignOf
    split
    · rename_i h; exact absurd (BitVec.eq_of_toNat_eq h) h0
    · rename_i h; exact absurd (BitVec.eq_of_toNat_eq h) h1
    · rfl
  unfold stepTime
  rw [hsign]

theorem stepTime_refused {p : Port} {ps : List Byte} {s : State} {back : Bool}
    (hsign : stepSignOf (byteField ps 0) = some back)
    (h : steppedTime s.time.now back (pointField ps 1) = .error .range) :
    stepTime p ps s = refuse s .range := by
  unfold stepTime
  simp only [hsign, h]

theorem stepTime_stepped {p : Port} {ps : List Byte} {s : State} {back : Bool} {new : Point}
    (hsign : stepSignOf (byteField ps 0) = some back)
    (h : steppedTime s.time.now back (pointField ps 1) = .ok new) :
    stepTime p ps s = okay (changeTime new s.time.frac s.time.timeState .step s)
      (changePayload s.time.now new (s.time.epoch + 1)) := by
  unfold stepTime
  simp only [hsign, h]

/-- Settles O24: the sign decides between the two bounds of the scale, and the point is the one whose
nanoseconds are the sum or the difference. -/
theorem stepTimeChangesTime : Obligations.StepTimeChangesTime := by
  intro p c d o s hex hp sign offset stepped
  have hexec : exec (.stepTime p) s = .next (complete p c.tag d o (stepTime p c.params s)) :=
    execution_of_executes_settled hex hp
  have hback : sign = 1 → stepSignOf (byteField c.params 0) = some true := fun h => by
    rw [show byteField c.params 0 = 1 from h]; rfl
  have hforward : sign = 0 → stepSignOf (byteField c.params 0) = some false := fun h => by
    rw [show byteField c.params 0 = 0 from h]; rfl
  have refused : ∀ back, stepSignOf (byteField c.params 0) = some back →
      steppedTime s.time.now back offset = .error .range →
      exec (.stepTime p) s = .next (answered p c d o .range [] s) := fun back hsign h => by
    rw [hexec, stepTime_refused hsign h]; rfl
  have taken : ∀ back new, stepSignOf (byteField c.params 0) = some back →
      steppedTime s.time.now back offset = .ok new → stepped new := fun back new hsign h =>
    ⟨_, by rw [hexec, stepTime_stepped hsign h, changePayload_eq]; rfl, timeChange_changeTime _ _ _ _ _⟩
  refine ⟨fun h0 h1 => ?_, fun hsign h => ?_, fun hsec hns hnow => ⟨fun h hlt => ?_, fun h hlt => ?_,
    fun new hnew => ⟨fun h heq => ?_, fun h hmax heq => ?_⟩⟩⟩
  · rw [hexec, stepTime_badSign h0 h1]; rfl
  · rcases hsign with h0 | h1
    · exact refused _ (hforward h0) (steppedTime_range h)
    · exact refused _ (hback h1) (steppedTime_range h)
  · refine refused _ (hback h) ?_
    rw [steppedTime_back hsec hns, if_neg]
    rw [Point.atOrBefore_iff_toNs_le hns hnow]
    omega
  · refine refused _ (hforward h) ?_
    rw [steppedTime_forward hsec hns, if_pos]
    rw [plus_sec]
    unfold maxSeconds
    omega
  · refine taken _ _ (hback h) ?_
    have hminus : s.time.now.minus offset = new := by
      rw [← Point.ofNs_toNs hnew, Point.minus, ← heq, Nat.add_sub_cancel]
    rw [steppedTime_back hsec hns, if_pos, hminus]
    rw [Point.atOrBefore_iff_toNs_le hns hnow]
    omega
  · refine taken _ _ (hforward h) ?_
    have hplus : s.time.now.plus offset = new := by
      rw [← Point.ofNs_toNs hnew, heq, Point.plus]
    rw [steppedTime_forward hsec hns, hplus, if_neg]
    unfold maxSeconds
    omega

/-! ### START_SLEW and STOP_SLEW -/

theorem startSlew_refused {p : Port} {ps : List Byte} {s : State}
    (h : rateField ps 0 < -67108864 ∨ 67108864 < rateField ps 0 ∨ field ps 4 4 < 1 ∨ 1000000 < field ps 4 4) :
    startSlew p ps s = refuse s .range := by
  unfold startSlew
  dsimp only
  split
  · rfl
  · rename_i hrate
    obtain ⟨hlow, hhigh⟩ := not_not.1 hrate
    exact if_pos (by omega)

theorem startSlew_started {p : Port} {ps : List Byte} {s : State} (hrate : rateInRange (rateField ps 0))
    (hlow : 1 ≤ field ps 4 4) (hhigh : field ps 4 4 ≤ 1000000) :
    startSlew p ps s = okay { endSlew .replaced s with
        time := { (endSlew .replaced s).time with
          slew := some ⟨rateField ps 0, endAfter s.time.elapsed (field ps 4 4 * 1000)⟩ } }
      (elapsedBytes (endAfter s.time.elapsed (field ps 4 4 * 1000))) := by
  unfold startSlew
  dsimp only
  rw [if_neg (not_not.2 hrate), if_neg (by omega)]

theorem stopSlew_none {p : Port} {ps : List Byte} {s : State} (h : s.time.slew = none) :
    stopSlew p ps s = okay s (List.replicate 8 0) := by
  unfold stopSlew
  rw [h]
  rfl

theorem stopSlew_some {p : Port} {ps : List Byte} {s : State} {x : Slew} (h : s.time.slew = some x) :
    stopSlew p ps s = okay { s with time := { s.time with slew := none } }
      (be 4 (distance s.time.elapsed x.stop) ++ rateBytes x.rate) := by
  unfold stopSlew
  rw [h]
  rfl

/-- Settles O26: a running slew ends for the holder that issued the command, and the new one starts from the
state that leaves. -/
theorem slewStartsAndStops : Obligations.SlewStartsAndStops := by
  intro p c d o s u
  refine ⟨fun hex => ?_, fun hex => ?_⟩
  · intro rate ms stop
    have hexec : exec (.startSlew p) s = .next (complete p c.tag d o (startSlew p c.params u)) :=
      execution_of_executes hex
    obtain ⟨-, -, -, hholder, -⟩ := hex
    refine ⟨fun h => ?_, fun hr hr' hms hms' => ⟨endSlew .replaced u, ?_, endSlew_none _,
      fun x hx => endSlew_of_isHolder _ (hholder rfl) hx⟩⟩
    · rw [hexec, startSlew_refused h]
      rfl
    · rw [hexec, startSlew_started ⟨hr, hr'⟩ hms hms']
      rfl
  · have hexec : exec (.stopSlew p) s = .next (complete p c.tag d o (stopSlew p c.params u)) :=
      execution_of_executes hex
    refine ⟨fun h => ?_, fun x hx => ?_⟩
    · rw [hexec, stopSlew_none h]
      rfl
    · rw [hexec, stopSlew_some hx]
      rfl

end Sys2Proof.Machine

/-! Ends reached, the authority's loss, the advance and device reset (R4, R8, R18, R33, R136, R172). -/

namespace Sys2Proof.Machine

open Claims

/-! ### Ends reached (R8, R18, R136) -/

theorem slewEnd_of_reached {s : State} {x : Slew} (hx : s.time.slew = some x)
    (h : distance s.time.elapsed x.stop = 0) :
    slewEnd s = reportHolder (.slewDone .elapsed x.rate 0)
      { s with time := { s.time with slew := none } } := by
  unfold slewEnd
  rw [hx]
  dsimp only
  rw [if_pos h, endSlew_some _ hx, Slew.remaining, h]

theorem pulseEnd_of_reached {s : State} {o : OutLine} {pl : Pulse} (hp : (s.outputs.get o).pulse = some pl)
    (h : distance s.time.elapsed pl.stop = 0) : pulseEnd o s = s.putOut o ⟨pl.returnLevel, none⟩ := by
  unfold pulseEnd
  rw [hp]
  exact if_pos h

/-- Settles O27: both ends in their reached case, and the arithmetic of the distance modulo 2^48. -/
theorem endsInElapsedTime : Obligations.EndsInElapsedTime := by
  intro s u
  refine ⟨fun x hx hd => ?_, fun o pl hp hd => ?_, fun now stop hnow hstop => ?_⟩
  · have hexec : exec .slewEnd s = .next (slewEnd u) := rfl
    rw [hexec, slewEnd_of_reached hx hd]
    exact ⟨fun hv => congrArg _ (reportHolder_of_vacant _ hv),
      fun h hh => congrArg _ (reportHolder_of_holder _ hh)⟩
  · exact congrArg Host.Outcome.next (pulseEnd_of_reached hp hd)
  · unfold distance elapsedModulus
    omega

/-- The stage of a line whose pulse ends when `take` says so and its end is reached. -/
def OutStage.ended (now : Nat) (take : Bool) (x : OutStage) : OutStage :=
  match x.pulse with
  | some pl => if take = true ∧ distance now pl.stop = 0 then ⟨pl.returnLevel, none⟩ else x
  | none => x

theorem pulseEnd_if_eq (take : Bool) (o : OutLine) (s : State) :
    (if take = true then pulseEnd o s else s) =
      { s with outputs := s.outputs.put o ((s.outputs.get o).ended s.time.elapsed take) } := by
  cases take with
  | true =>
    rw [if_pos rfl, pulseEnd_eq]
    cases hp : (s.outputs.get o).pulse with
    | none => simp only [OutStage.ended, hp]
    | some pl => simp only [OutStage.ended, hp, true_and]
  | false =>
    have hkept : (s.outputs.get o).ended s.time.elapsed false = s.outputs.get o := by
      unfold OutStage.ended
      split <;> simp
    rw [if_neg Bool.false_ne_true, hkept, PerOut.put_get]

/-- A slew's end makes the slew absent and offers a report, and does nothing else (R18). -/
theorem slewEnd_cases (s : State) : slewEnd s = s ∨
    ∃ r, slewEnd s = { s with time := { s.time with slew := none }, reports := r } := by
  by_cases h : ∃ x, s.time.slew = some x ∧ distance s.time.elapsed x.stop = 0
  · obtain ⟨x, hx, hd⟩ := h
    rw [slewEnd_of_reached hx hd]
    exact .inr ⟨_, reportHolder_eq _ _⟩
  · exact .inl (slewEnd_of_not_reached fun x hx hd => h ⟨x, hx, hd⟩)

/-- The slew's end among the ends taken, or not. -/
theorem slewEnd_if_cases (take : Bool) (s : State) : (if take = true then slewEnd s else s) = s ∨
    ∃ r, (if take = true then slewEnd s else s) =
      { s with time := { s.time with slew := none }, reports := r } := by
  cases take with
  | true => exact slewEnd_cases s
  | false => exact .inl rfl

/-- The ends numbered in `takes`, taken in ascending number: the slew's, then the pulses'. -/
theorem takeEnds_filter (takes : Nat → Bool) (s : State) :
    (endNumbers.filter takes).foldl (fun s k => takeEnd k s) s =
      let w := if takes 0 = true then slewEnd s else s
      { w with outputs :=
        ⟨s.outputs.out0.ended s.time.elapsed (takes 1),
          s.outputs.out1.ended s.time.elapsed (takes 2),
          s.outputs.out2.ended s.time.elapsed (takes 3),
          s.outputs.out3.ended s.time.elapsed (takes 4)⟩ } := by
  obtain ⟨hout, helapsed⟩ : (if takes 0 = true then slewEnd s else s).outputs = s.outputs ∧
      (if takes 0 = true then slewEnd s else s).time.elapsed = s.time.elapsed := by
    rcases slewEnd_if_cases (takes 0) s with h | ⟨r, h⟩ <;> rw [h] <;> exact ⟨rfl, rfl⟩
  rw [List.foldl_filter, ← hout, ← helapsed]
  simp only [endNumbers, List.foldl_cons, List.foldl_nil, takeEnd, pulseEnd_if_eq]
  rfl

/-- What the slew's end and the pulse ends come to, whichever of them are taken. -/
theorem endsTaken_takeEnds (takes : Nat → Bool) (s : State) :
    EndsTaken (takes 0) (fun o => takes (o.code.toNat - 3)) s
      ((endNumbers.filter takes).foldl (fun s k => takeEnd k s) s) := by
  rw [takeEnds_filter]
  refine ⟨if takes 0 = true then slewEnd s else s, ?_, fun x htake hx hd => ?_, rfl, fun o => ?_⟩
  · rintro (hnot | hnone)
    · exact if_neg (by simp [hnot])
    · rw [slewEnd_of_not_reached hnone, ite_self]
  · intro ended
    rw [if_pos htake, slewEnd_of_reached hx hd]
    exact ⟨fun hv => reportHolder_of_vacant _ hv, fun h hh => reportHolder_of_holder _ hh⟩
  · cases o <;> rfl

/-! ### The loss of the authority (R33, R34) -/

theorem reportLoss_eq (h : Holder) (cause : LossCause) (s : State) :
    reportLoss h cause s = if cause = .expired then
      report h.port s.stamp (.authorityLost h.lease h.expiry (s.authority.waiters.head?.map (·.port))) s
    else s := by
  cases cause <;> rfl

theorem reportLoss_undisturbed (h : Holder) (cause : LossCause) (s : State) :
    Undisturbed s (reportLoss h cause s) := by
  cases cause with
  | expired => exact reportNow_undisturbed _ _ s
  | released => exact .refl s
  | detached => exact .refl s

@[simp] theorem reportLoss_calendar (h : Holder) (cause : LossCause) (s : State) :
    (reportLoss h cause s).calendar = s.calendar := by
  cases cause with
  | expired => exact reportNow_calendar _ _ s
  | released => rfl
  | detached => rfl

theorem cancelArming_undisturbed (cause : CancelCause) (s : State) :
    Undisturbed (s.putArming none) (cancelArming cause s) := by
  cases h : s.events.arming with
  | none =>
    have hkept : s.putArming none = s := by rw [State.putArming, ← h]
    rw [cancelArming_none cause h, hkept]
    exact .refl s
  | some a =>
    rw [cancelArming_some cause h]
    exact reportNow_undisturbed _ _ _

@[simp] theorem cancelArming_calendar (cause : CancelCause) (s : State) :
    (cancelArming cause s).calendar = s.calendar := by
  cases h : s.events.arming with
  | none => rw [cancelArming_none cause h]
  | some a => rw [cancelArming_some cause h]; simp

/-- A resume leaves the Calendar RUNNING, and beyond that touches what a release touches. -/
theorem resume_undisturbed (s : State) :
    Undisturbed { s with calendar := { s.calendar with releaseState := .running } } (resume s) := by
  by_cases h : s.running
  · have hkept : ({ s with calendar := { s.calendar with releaseState := .running } } : State) = s := by
      rw [← show s.calendar.releaseState = .running from h]
    rw [resume_running h, hkept]
    exact .refl s
  · rw [resume_held h]
    exact releaseDue_undisturbed true _

/-- The handover to the oldest waiter, whole (R34). -/
theorem handover_granted {s : State} {w : Waiter} {rest : List Waiter} (former : Port) (cause : LossCause)
    (h : s.authority.waiters = w :: rest) :
    handover former cause s =
      report w.port s.stamp
        (.authorityGranted former cause w.lease (leaseExpiryFrom s.time.elapsed w.lease))
        { s with authority := ⟨some ⟨w.port, w.lease, leaseExpiryFrom s.time.elapsed w.lease⟩, rest⟩ } := by
  unfold handover
  rw [h]
  rfl

/-- The loss of the authority, whole and in its order (R33, R34). -/
theorem authorityLoss_loseAuthority (h : Holder) (cause : LossCause) (u : State) :
    AuthorityLoss h cause u (loseAuthority h cause u) := by
  let vacated : State := { u with authority := { u.authority with holder := none } }
  let a := reportLoss h cause vacated
  let b := cancelArming .authorityLost a
  let c := resume b
  have ha : Undisturbed vacated a := reportLoss_undisturbed h cause vacated
  have hb : Undisturbed (a.putArming none) b := cancelArming_undisturbed _ a
  have hc := resume_undisturbed b
  have htime : c.time = u.time := hc.time.trans (hb.time.trans ha.time)
  have hauthority : c.authority = vacated.authority := hc.authority.trans (hb.authority.trans ha.authority)
  have hports : c.ports = u.ports := hc.ports.trans (hb.ports.trans ha.ports)
  have hquota : c.store.quota = u.store.quota := hc.quota.trans (hb.quota.trans ha.quota)
  have hevents : c.events = { u.events with arming := none } := by
    rw [hc.events]
    exact (cancelArming_events _ a).trans (by rw [ha.events])
  have hcalendar : b.calendar = u.calendar :=
    (cancelArming_calendar _ a).trans (reportLoss_calendar h cause vacated)
  have hstamp : c.stamp = u.stamp := by simp only [State.stamp, htime]
  have hwhole : loseAuthority h cause u = match u.authority.waiters.head? with
      | none => c
      | some w => report w.port u.stamp
          (.authorityGranted h.port cause w.lease ((u.time.elapsed + w.lease * 1000) % 281474976710656))
          { c with authority :=
            ⟨some ⟨w.port, w.lease, (u.time.elapsed + w.lease * 1000) % 281474976710656⟩,
              u.authority.waiters.tail⟩ } := by
    change handover h.port cause c = _
    cases hw : u.authority.waiters with
    | nil => exact handover_vacant _ _ (by rw [hauthority]; exact hw)
    | cons w rest =>
      rw [handover_granted _ _ (show c.authority.waiters = w :: rest by rw [hauthority]; exact hw), hstamp,
        htime]
      rfl
  refine ⟨?_, a, b, c, reportLoss_eq h cause vacated, ?_, fun hrun => ?_, fun hheld => ?_, ?_⟩
  · rw [hwhole]
    cases hw : u.authority.waiters with
    | nil =>
      have hvacant : vacated.authority = ⟨none, []⟩ := by rw [← hw]
      exact ⟨hauthority.trans hvacant, hevents, hc.releaseState, htime, hports, hquota⟩
    | cons w rest =>
      dsimp only [List.head?_cons, List.tail_cons]
      simp only [report_authority, report_events, report_calendar, report_time, report_ports, report_store]
      exact ⟨rfl, hevents, hc.releaseState, htime, hports, hquota⟩
  · have hstampa : a.stamp = u.stamp := by simp only [State.stamp, ha.time]; rfl
    cases hm : u.events.arming with
    | none => exact cancelArming_none _ (by rw [ha.events]; exact hm)
    | some m =>
      have hcancel := cancelArming_some .authorityLost (s := a) (a := m) (by rw [ha.events]; exact hm)
      rw [reportNow, State.putArming, State.stamp] at hcancel
      exact hcancel.trans (by rw [← hstampa]; rfl)
  · exact resume_running (by rw [State.running, hcalendar]; exact hrun)
  · have hnot : ¬ b.running := by rw [State.running, hcalendar, hheld]; decide
    have hnow : b.time.now = u.time.now := by rw [hb.time]; exact congrArg TimeBase.now ha.time
    change resume b = _
    rw [resume_held hnot, releaseDue, dueEntries]
    dsimp only
    rw [hcalendar, hnow]
    rfl
  · rw [hwhole]
    cases hw : u.authority.waiters <;> rfl

/-- The expiry of a lease that is reached is that loss (R31). -/
theorem leaseExpiry_of_reached {s : State} {h : Holder} (hh : s.authority.holder = some h)
    (hd : distance s.time.elapsed h.expiry = 0) : leaseExpiry s = loseAuthority h .expired s := by
  unfold leaseExpiry
  rw [hh]
  exact if_pos hd

/-! ### The advance (R4, R9, R73) -/

theorem takeEnds_authority (takes : Nat → Bool) (s : State) :
    ((endNumbers.filter takes).foldl (fun s k => takeEnd k s) s).authority = s.authority ∧
      ((endNumbers.filter takes).foldl (fun s k => takeEnd k s) s).time.elapsed = s.time.elapsed := by
  rw [takeEnds_filter]
  dsimp only
  rcases slewEnd_if_cases (takes 0) s with h | ⟨r, h⟩ <;> rw [h] <;> exact ⟨rfl, rfl⟩

theorem dueEndsTaken_takeDueEnds (u : State) : DueEndsTaken u (takeDueEnds u) := by
  refine ⟨fun hnot => ?_, fun h hh hd => ?_⟩
  · have hlease : ¬ u.leaseDue = true := fun hdue => by
      obtain ⟨h, hh, hd⟩ := leaseDue_iff.1 hdue
      exact hnot h hh hd
    have htaken : takeDueEnds u = (endNumbers.filter fun _ => true).foldl (fun s k => takeEnd k s) u :=
      if_neg hlease
    rw [htaken]
    exact endsTaken_takeEnds (fun _ => true) u
  · let takes := Config.endBeforeLease u.draws
    let a := (endNumbers.filter takes).foldl (fun s k => takeEnd k s) { u with draws := u.draws + 1 }
    obtain ⟨hauthority, helapsed⟩ := takeEnds_authority takes { u with draws := u.draws + 1 }
    have hexpiry : leaseExpiry a = loseAuthority h .expired a :=
      leaseExpiry_of_reached ((congrArg Authority.holder hauthority).trans hh)
        ((congrArg (distance · h.expiry) helapsed).trans hd)
    have htaken : takeDueEnds u =
        (endNumbers.filter fun k => !takes k).foldl (fun s k => takeEnd k s) (leaseExpiry a) :=
      if_pos (leaseDue_iff.2 ⟨h, hh, hd⟩)
    rw [htaken, hexpiry]
    exact ⟨a, loseAuthority h .expired a, endsTaken_takeEnds takes _,
      authorityLoss_loseAuthority h .expired a, endsTaken_takeEnds (fun k => !takes k) _⟩

/-- Where no end is reached, none is taken. -/
theorem takeDueEnds_of_not_reached {u : State}
    (hslew : ∀ x ∈ u.time.slew, distance u.time.elapsed x.stop ≠ 0)
    (hlease : ∀ h ∈ u.authority.holder, distance u.time.elapsed h.expiry ≠ 0)
    (hpulse : ∀ o, ∀ pl ∈ (u.outputs.get o).pulse, distance u.time.elapsed pl.stop ≠ 0) :
    takeDueEnds u = u := by
  have hnot : ¬ u.leaseDue = true := fun hdue => by
    obtain ⟨h, hh, hd⟩ := leaseDue_iff.1 hdue
    exact hlease h hh hd
  unfold takeDueEnds
  rw [if_neg hnot]
  simp only [endNumbers, List.foldl_cons, List.foldl_nil, takeEnd, slewEnd_of_not_reached hslew,
    pulseEnd_of_not_reached (hpulse _)]

theorem timeInRange_takeEnds (takes : Nat → Bool) {s : State} (h : TimeInRange s.time) :
    TimeInRange ((endNumbers.filter takes).foldl (fun s k => takeEnd k s) s).time := by
  obtain ⟨hsec, hns, hfrac, hbase, hslew, hrest⟩ := h
  rw [takeEnds_filter]
  dsimp only
  rcases slewEnd_if_cases (takes 0) s with h | ⟨r, h⟩
  · rw [h]
    exact ⟨hsec, hns, hfrac, hbase, hslew, hrest⟩
  · rw [h]
    exact ⟨hsec, hns, hfrac, hbase, nofun, hrest⟩

theorem leaseExpiry_time (s : State) : (leaseExpiry s).time = s.time := by
  unfold leaseExpiry
  split
  · split
    · obtain ⟨⟨-, -, -, htime, -⟩, -⟩ := authorityLoss_loseAuthority _ .expired s
      exact htime
    · rfl
  · rfl

theorem timeInRange_takeDueEnds {s : State} (h : TimeInRange s.time) : TimeInRange (takeDueEnds s).time := by
  unfold takeDueEnds
  split
  · refine timeInRange_takeEnds _ ?_
    rw [leaseExpiry_time]
    exact timeInRange_takeEnds _ h
  · exact timeInRange_takeEnds (fun _ => true) h

/-- Nanoseconds and fraction after an advance, in units of 2^-32 ns from the second (R4). -/
theorem advancedUnits_eq {t : TimeBase} (h : TimeInRange t) :
    t.now.ns * 4294967296 + t.frac + (42949672960 + t.baseRate + (t.slew.map (·.rate)).getD 0).toNat =
      t.now.ns * unitsPerNs + t.advancedUnits := by
  obtain ⟨hpos, -⟩ := increment_bounds h
  unfold TimeBase.advancedUnits unitsPerNs
  change _ + t.increment.toNat = _
  omega

/-- An advance within the scale moves Common Time and releases on time. -/
theorem released_advance {s : State} (h : s.time.advancedPoint.sec ≤ maxSeconds) :
    Released false { countPeriod s with time := { (countPeriod s).time with
      now := s.time.advancedPoint, frac := s.time.advancedUnits % unitsPerNs } } (advance s) := by
  rw [advance_moves h]
  exact released_releaseIfRunning _ _

/-- An advance past the scale's end is a time change to its start. -/
theorem timeChange_advance {s : State} {sec ns : Nat} (h : s.time.advancedPoint = ⟨sec, ns⟩)
    (hsec : maxSeconds < sec) :
    TimeChange (countPeriod s) ⟨0, ns⟩ (s.time.advancedUnits % unitsPerNs) s.time.timeState .wrap
      (advance s) := by
  have hwraps : maxSeconds < s.time.advancedPoint.sec := by rwa [h]
  have hns : s.time.advancedPoint.ns = ns := by rw [h]
  rw [advance_wraps hwraps, hns]
  exact timeChange_changeTime _ _ _ _ _

/-- Settles O28: the advance of the state in which every end reached has been taken. -/
theorem advanceByOneIncrement : Obligations.AdvanceByOneIncrement := by
  intro s
  refine ⟨fun h => if_pos h, fun hreset htime => ?_⟩
  intro u
  have hrange : TimeInRange (takeDueEnds u).time := timeInRange_takeDueEnds (timeInRange_settle htime)
  refine ⟨takeDueEnds u, dueEndsTaken_takeDueEnds u,
    fun ⟨hslew, hlease, hpulse⟩ => takeDueEnds_of_not_reached hslew hlease hpulse, ?_⟩
  generalize hv : takeDueEnds u = v at *
  intro units ns frac
  have hexec : exec .refclkAdvance s = .next (advance v) := by
    rw [← hv]; exact execRefclkAdvance_of_negated hreset
  have hunits : units = v.time.now.ns * unitsPerNs + v.time.advancedUnits := advancedUnits_eq hrange
  have hns : ns = v.time.advancedNs := by
    change units / unitsPerNs = _
    rw [hunits, Nat.mul_comm, Nat.mul_add_div (by decide)]
    rfl
  have hfrac : frac = v.time.advancedUnits % unitsPerNs := by
    change units % unitsPerNs = _
    rw [hunits, Nat.mul_comm, Nat.mul_add_mod]
  have hsec : v.time.now.sec ≤ maxSeconds := hrange.1
  rw [hns, hfrac]
  refine ⟨fun new hnew => ⟨_, hexec, ?_⟩, fun hcarry hlast => ⟨_, hexec, ?_⟩⟩
  · have hpoint : v.time.advancedPoint = new ∧ new.sec ≤ maxSeconds := by
      rcases hnew with ⟨hlt, rfl⟩ | ⟨hge, hlt, rfl⟩
      · exact ⟨if_pos hlt, hsec⟩
      · exact ⟨if_neg (Nat.not_lt.2 hge), hlt⟩
    obtain ⟨rfl, hle⟩ := hpoint
    exact released_advance hle
  · have hpoint : v.time.advancedPoint = ⟨v.time.now.sec + 1, v.time.advancedNs - 1000000000⟩ :=
      if_neg (Nat.not_lt.2 hcarry)
    exact timeChange_advance hpoint (Nat.lt_succ_of_le hlast.ge)

/-! ### Device reset (R172) -/

/-- Settles O17: the state after is written out, and each block of it is read off. -/
theorem deviceResetValues : Obligations.DeviceResetValues := by
  intro s
  have hstore : (deviceReset s).store = .reset := rfl
  have hcalendar : (deviceReset s).calendar = .reset := rfl
  refine ⟨deviceReset s, rfl, rfl, rfl, rfl, fun i => ⟨?_, ?_⟩, ?_, ?_, rfl, ?_, rfl, rfl, rfl,
    fun p => ?_, fun l => ?_, fun o => ?_, rfl, rfl⟩
  · simp [hstore, Store.reset]
  · simp [hcalendar, Calendar.reset]
  · rw [hstore, Store.reset]
  · rw [hstore, Store.reset]
  · rw [hcalendar, Calendar.reset]
  · have hmask : ((deviceReset s).reports.get p) = .reset := by cases p <;> rfl
    refine ⟨?_, ?_, ?_, ?_, fun k hk => ?_, ?_, ?_, ?_⟩
    case refine_5 => simp [hmask, ReportQueue.reset]
    all_goals cases p <;> rfl
  · cases l <;> exact ⟨rfl, rfl, rfl, rfl, rfl⟩
  · cases o <;> exact ⟨rfl, rfl⟩

end Sys2Proof.Machine

/-! The commands of the Time Authority: claims, renewals, withdrawals, and the loss by release or expiry
(R25 to R34). -/

namespace Sys2Proof.Machine

open Claims

/-! ### CLAIM_AUTHORITY (R25 to R27) -/

theorem claimAuthority_outOfRange {p : Port} {ps : List Byte} {s : State} (h : ¬ leaseInRange (field ps 0 2)) :
    claimAuthority p ps s = refuse s .range := if_pos h

theorem claimAuthority_vacant {p : Port} {ps : List Byte} {s : State} (hr : leaseInRange (field ps 0 2))
    (hh : s.authority.holder = none) :
    claimAuthority p ps s = okay (grant p (field ps 0 2) s) (leaseBytes s (field ps 0 2)) := by
  unfold claimAuthority
  dsimp only
  rw [if_neg (not_not.2 hr), hh]

theorem claimAuthority_holder {p : Port} {ps : List Byte} {s : State} {h : Holder}
    (hr : leaseInRange (field ps 0 2)) (hh : s.authority.holder = some h) (hp : h.port = p) :
    claimAuthority p ps s = ⟨grant p (field ps 0 2) s, .alreadyHolder, leaseBytes s (field ps 0 2)⟩ := by
  unfold claimAuthority
  dsimp only
  rw [if_neg (not_not.2 hr), hh]
  exact if_pos hp

/-- A waiter keeps its place (R27). -/
theorem claimAuthority_waiter {p : Port} {ps : List Byte} {s : State} {h : Holder}
    (hr : leaseInRange (field ps 0 2)) (hh : s.authority.holder = some h) (hp : h.port ≠ p)
    (hw : s.authority.position p ≠ 0) :
    claimAuthority p ps s = ⟨s, .alreadyWaiting, [BitVec.ofNat 8 (s.authority.position p)]⟩ := by
  unfold claimAuthority
  dsimp only
  rw [if_neg (not_not.2 hr), hh]
  dsimp only
  rw [if_neg hp, if_pos hw]

/-- Any other port joins the tail of the queue (R26). -/
theorem claimAuthority_joins {p : Port} {ps : List Byte} {s : State} {h : Holder}
    (hr : leaseInRange (field ps 0 2)) (hh : s.authority.holder = some h) (hp : h.port ≠ p)
    (hw : s.authority.position p = 0) :
    claimAuthority p ps s =
      ⟨{ s with authority := { s.authority with waiters := s.authority.waiters ++ [⟨p, field ps 0 2⟩] } },
        .waiting, [BitVec.ofNat 8 (s.authority.waiters.length + 1)]⟩ := by
  unfold claimAuthority
  dsimp only
  rw [if_neg (not_not.2 hr), hh]
  dsimp only
  rw [if_neg hp, if_neg (not_not.2 hw), List.length_append, List.length_singleton]

/-! ### Positions in the waiter queue (R23) -/

/-- Where the waiters are distinct, positions count from 1 at the oldest. -/
theorem position_of_waiter {a : Authority} {p : Port} {k : Nat} {w : Waiter} (hk : a.waiters[k]? = some w)
    (hp : w.port = p) (hnodup : (a.waiters.map (·.port)).Nodup) : a.position p = k + 1 := by
  obtain ⟨hlt, hget⟩ := List.getElem?_eq_some_iff.1 hk
  have hfirst : a.waiters.findIdx? (fun w => decide (w.port = p)) = some k := by
    refine List.findIdx?_eq_some_iff_getElem.2 ⟨hlt, by simpa [hget] using hp, fun j hj => ?_⟩
    have hne := List.nodup_iff_injective_getElem.1 hnodup
    intro hjp
    have hsame : (a.waiters.map (·.port))[j]'(by simp; omega) = (a.waiters.map (·.port))[k]'(by simpa) := by
      simpa [hget, hp] using hjp
    have := congrArg Fin.val (@hne ⟨j, by simp; omega⟩ ⟨k, by simpa⟩ hsame)
    dsimp only at this
    omega
  unfold Authority.position
  rw [hfirst]

theorem position_eq_zero {a : Authority} {p : Port} (h : ∀ w ∈ a.waiters, w.port ≠ p) : a.position p = 0 := by
  have hnone : a.waiters.findIdx? (fun w => decide (w.port = p)) = none :=
    List.findIdx?_eq_none_iff.2 fun w hw => by simpa using h w hw
  unfold Authority.position
  rw [hnone]

/-- Where the waiters are distinct, a port's entries are the one at its place in the queue. -/
theorem filter_ne_eq_eraseIdx {p : Port} : ∀ {ws : List Waiter} {k : Nat} {w : Waiter}, ws[k]? = some w →
    w.port = p → (ws.map (·.port)).Nodup → ws.filter (fun w => decide (w.port ≠ p)) = ws.eraseIdx k
  | x :: rest, 0, w, hk, hp, hnodup => by
    obtain rfl : x = w := by simpa using hk
    obtain ⟨hout, -⟩ := List.nodup_cons.1 hnodup
    have hrest : rest.filter (fun w => decide (w.port ≠ p)) = rest := List.filter_eq_self.2 fun y hy => by
      simpa using fun hyp : y.port = p => hout (List.mem_map.2 ⟨y, hy, hyp.trans hp.symm⟩)
    rw [List.filter_cons_of_neg (by simpa using hp), hrest, List.eraseIdx_cons_zero]
  | x :: rest, k + 1, w, hk, hp, hnodup => by
    obtain ⟨hout, hnodup'⟩ := List.nodup_cons.1 hnodup
    have hk' : rest[k]? = some w := by simpa using hk
    have hx : x.port ≠ p := fun hxp =>
      hout (List.mem_map.2 ⟨w, List.mem_of_getElem? hk', hp.trans hxp.symm⟩)
    rw [List.filter_cons_of_pos (by simpa using hx), filter_ne_eq_eraseIdx hk' hp hnodup',
      List.eraseIdx_cons_succ]

/-- Settles O30: the four states of the authority, behind the range check. -/
theorem claimAuthorityOutcomes : Obligations.ClaimAuthorityOutcomes := by
  intro p c d o s hex u ms expiry granted
  have hexec : exec (.claimAuthority p) s = .next (complete p c.tag d o (claimAuthority p c.params u)) :=
    execution_of_executes hex
  rw [hexec]
  refine ⟨fun h => ?_, fun hlow hhigh => ⟨fun hh => ?_, fun h hh => ⟨fun hp => ?_, fun hp =>
    ⟨fun k w hk hw hnodup => ?_, fun hw => ?_⟩⟩⟩⟩
  · rw [claimAuthority_outOfRange fun hr => by unfold leaseInRange at hr; omega]
    rfl
  · rw [claimAuthority_vacant ⟨hlow, hhigh⟩ hh]
    rfl
  · rw [claimAuthority_holder ⟨hlow, hhigh⟩ hh hp]
    rfl
  · have hpos : u.authority.position p = k + 1 := position_of_waiter hk hw hnodup
    rw [claimAuthority_waiter ⟨hlow, hhigh⟩ hh hp (by omega), hpos]
  · rw [claimAuthority_joins ⟨hlow, hhigh⟩ hh hp (position_eq_zero hw)]

/-! ### RENEW_AUTHORITY, WITHDRAW_CLAIM and RELEASE_AUTHORITY (R28 to R30) -/

theorem asHolder_of_holder {p : Port} {s : State} {h : Holder} {body : Holder → Reply}
    (hh : s.authority.holder = some h) (hp : h.port = p) : asHolder p s body = body h := by
  unfold asHolder
  rw [hh]
  exact if_pos hp

theorem asHolder_of_not_holder {p : Port} {s : State} {body : Holder → Reply} (h : ¬ s.isHolder p) :
    asHolder p s body = refuse s .notAuthority := by
  unfold asHolder
  split
  · rename_i x hx
    exact if_neg fun hp => h (Option.map_eq_some_iff.2 ⟨x, hx, hp⟩)
  · rfl

theorem withdrawClaim_refused {p : Port} {ps : List Byte} {s : State} (h : ∀ w ∈ s.authority.waiters, w.port ≠ p) :
    withdrawClaim p ps s = refuse s .notWaiting := if_pos (position_eq_zero h)

theorem withdrawClaim_withdrawn {p : Port} {ps : List Byte} {s : State} {k : Nat} {w : Waiter}
    (hk : s.authority.waiters[k]? = some w) (hp : w.port = p)
    (hnodup : (s.authority.waiters.map (·.port)).Nodup) :
    withdrawClaim p ps s = okay
      { s with authority := { s.authority with waiters := s.authority.waiters.eraseIdx k } }
      [BitVec.ofNat 8 (k + 1)] := by
  have hpos : s.authority.position p = k + 1 := position_of_waiter hk hp hnodup
  unfold withdrawClaim dropWaiter
  rw [hpos, if_neg (Nat.succ_ne_zero k), filter_ne_eq_eraseIdx hk hp hnodup]

/-- Settles O31: the holder's test of RENEW_AUTHORITY, and the place in the queue that WITHDRAW_CLAIM gives
up. -/
theorem renewAndWithdraw : Obligations.RenewAndWithdraw := by
  intro p c d o s hp
  refine ⟨fun hex => ?_, fun hex => ?_⟩
  · have hexec : exec (.renewAuthority p) s = .next (complete p c.tag d o (renewAuthority p c.params s)) :=
      execution_of_executes_settled hex hp
    rw [hexec, renewAuthority]
    refine ⟨fun h hh hport => ?_, fun hnot => ?_⟩
    · subst hport
      rw [asHolder_of_holder hh rfl]
      rfl
    · rw [asHolder_of_not_holder hnot]
      rfl
  · have hexec : exec (.withdrawClaim p) s = .next (complete p c.tag d o (withdrawClaim p c.params s)) :=
      execution_of_executes_settled hex hp
    rw [hexec]
    refine ⟨fun k w hk hw hnodup => ?_, fun hnot => ?_⟩
    · rw [withdrawClaim_withdrawn hk hw hnodup]
      rfl
    · rw [withdrawClaim_refused hnot]
      rfl

/-- After the loss the oldest waiter holds the authority, or nobody (R34). -/
theorem loseAuthority_holderPort (h : Holder) (cause : LossCause) (s : State) :
    (loseAuthority h cause s).authority.holderPort = s.authority.waiters.head?.map (·.port) := by
  obtain ⟨⟨hauthority, -⟩, -⟩ := authorityLoss_loseAuthority h cause s
  rw [hauthority]
  simp [Authority.holderPort, Function.comp_def]

/-- Settles O32: RELEASE_AUTHORITY and LEASE_EXPIRY are the same loss with their own cause. -/
theorem lossHandsAuthorityOver : Obligations.LossHandsAuthorityOver := by
  intro s u
  refine ⟨fun p c d o hex => ?_, fun h hh hd => ?_⟩
  · have hexec : exec (.releaseAuthority p) s = .next (complete p c.tag d o (releaseAuthority p c.params u)) :=
      execution_of_executes hex
    rw [hexec, releaseAuthority]
    refine ⟨fun h hh hp => ⟨loseAuthority h .released u, ?_, authorityLoss_loseAuthority h .released u⟩,
      fun hnot => ?_⟩
    · rw [asHolder_of_holder hh hp, ← loseAuthority_holderPort h .released u]
      rfl
    · rw [asHolder_of_not_holder hnot]
      rfl
  · exact ⟨loseAuthority h .expired u, congrArg Host.Outcome.next (leaseExpiry_of_reached hh hd),
      authorityLoss_loseAuthority h .expired u⟩

end Sys2Proof.Machine

/-! What ports hold and who holds what (R23, R61, R67, R81, R89, R108, R110, R121, R156): each operation's part
in keeping it, releases and the clock included. -/

namespace Sys2Proof.Machine

/-! ### The promises taken apart -/

/-- What a port holds: the armed list complete, and nothing left to a DETACHED port. -/
abbrev HoldingsSound (s : State) : Prop := ArmedListComplete s.calendar ∧ DetachedHoldsNothing s

/-- Who holds the authority, the lines and the arming. -/
abbrev RolesSound (s : State) : Prop := AuthoritySound s ∧ ClaimsAttached s ∧ GuardedByAuthority s

theorem sessionsSound_iff {s : State} :
    SessionsSound s ↔ s.departing = none ∧ HoldingsSound s ∧ RolesSound s := by
  constructor
  · rintro ⟨hdeparting, hcomplete, hauthority, hclaims, hguarded, hnothing⟩
    exact ⟨hdeparting, ⟨hcomplete, hnothing⟩, hauthority, hclaims, hguarded⟩
  · rintro ⟨hdeparting, ⟨hcomplete, hnothing⟩, hauthority, hclaims, hguarded⟩
    exact ⟨hdeparting, hcomplete, hauthority, hclaims, hguarded, hnothing⟩

theorem Port.mem_all (p : Port) : p ∈ Port.all := by
  cases p <;> decide

theorem Line.mem_all (line : Line) : line ∈ Line.all := by
  cases line with
  | event l => cases l <;> decide
  | output o => cases o <;> decide

theorem draftCount_eq_zero {st : Store} {p : Port} :
    st.draftCount p = 0 ↔ ∀ i : RecordNo, st.records[i].content.isDraftOf p = false := by
  unfold Store.draftCount
  rw [List.countP_eq_zero]
  constructor
  · intro h i
    simpa using h st.records[i] (by simp)
  · intro h r hr
    obtain ⟨i, hi, rfl⟩ := Vector.mem_iff_getElem.1 (Vector.mem_toList_iff.1 hr)
    simpa using h ⟨i, hi⟩

/-! ### Drafts and entries of a port -/

/-- No record becomes a DRAFT of a port whose DRAFT it was not. -/
def Store.AddsNoDraft (st st' : Store) : Prop :=
  ∀ (q : Port) (i : RecordNo), st.records[i].content.isDraftOf q = false →
    st'.records[i].content.isDraftOf q = false

/-- No record becomes an entry that ends with a port's session where it was none before. -/
def Calendar.AddsNoEntry (c c' : Calendar) : Prop :=
  ∀ (q : Port) (i : RecordNo), c.records[i].content.endsWith q = false →
    c'.records[i].content.endsWith q = false

theorem Store.putRecord_get (st : Store) (i j : RecordNo) (x : MessageRecord) :
    (st.putRecord i x).records[j] = if j = i then x else st.records[j] := by
  simp only [Store.putRecord, Fin.getElem_fin, Vector.getElem_set, Fin.ext_iff, eq_comm]

theorem Store.addsNoDraft_of_records {st st' : Store} (h : st'.records = st.records) : st.AddsNoDraft st' :=
  fun q i hi => by rwa [h]

theorem Store.AddsNoDraft.trans {a b c : Store} (h : a.AddsNoDraft b) (k : b.AddsNoDraft c) :
    a.AddsNoDraft c :=
  fun q i hi => k q i (h q i hi)

theorem Store.addsNoDraft_putContent {st : Store} {i : RecordNo} {c : MessageState}
    (h : ∀ q, st.records[i].content.isDraftOf q = false → c.isDraftOf q = false) :
    st.AddsNoDraft (st.putContent i c) := by
  intro q j hj
  rw [Store.putContent, Store.putRecord_get]
  split
  · rename_i hji
    exact h q (hji ▸ hj)
  · exact hj

theorem Store.addsNoDraft_release (st : Store) (i : RecordNo) (m : Message) :
    st.AddsNoDraft (st.release i m) :=
  Store.addsNoDraft_putContent (i := i) (c := .free) fun _ _ => rfl

theorem Store.addsNoDraft_takeReference (st : Store) (i : RecordNo) : st.AddsNoDraft (st.takeReference i) := by
  unfold Store.takeReference
  split
  · exact Store.addsNoDraft_putContent fun _ _ => rfl
  · exact Store.addsNoDraft_putContent fun _ _ => rfl
  · exact Store.addsNoDraft_of_records rfl

theorem Store.addsNoDraft_dropReference (st : Store) (i : RecordNo) : st.AddsNoDraft (st.dropReference i) := by
  unfold Store.dropReference
  split
  · split
    · exact st.addsNoDraft_release i _
    · exact Store.addsNoDraft_putContent fun _ _ => rfl
  · exact Store.addsNoDraft_of_records rfl

theorem Store.addsNoDraft_foldl {α : Type} {f : Store → α → Store}
    (h : ∀ (st : Store) (x : α), st.AddsNoDraft (f st x))
    (l : List α) (st : Store) : st.AddsNoDraft (l.foldl f st) := by
  induction l generalizing st with
  | nil => exact Store.addsNoDraft_of_records rfl
  | cons x l ih => exact (h st x).trans (ih (f st x))

/-- An append leaves the record a DRAFT of the same sender. -/
theorem Store.addsNoDraft_append {st : Store} {i : RecordNo} {m : Message} (data : List Byte)
    (h : st.records[i].content = .draft m) : st.AddsNoDraft (st.append i m data) := by
  intro q j hj
  have hgrown : (st.append i m data).records[j].content = if j = i
      then .draft { (st.grow m (newBlocks m.length data.length)).2 with length := m.length + data.length }
      else st.records[j].content := by
    change ((st.grow m (newBlocks m.length data.length)).1.putRecord i _).records[j].content = _
    rw [Store.putRecord_get]
    split <;> rfl
  rw [hgrown]
  split
  · rename_i hji
    rw [hji, h] at hj
    exact hj
  · exact hj

theorem Calendar.addsNoEntry_putContent {c : Calendar} {i : RecordNo} {x : EntryState}
    (h : ∀ q, c.records[i].content.endsWith q = false → x.endsWith q = false) :
    c.AddsNoEntry (c.putContent i x) := by
  intro q j hj
  rw [Calendar.putContent, Calendar.putRecord_get]
  split
  · rename_i hji
    exact h q (hji ▸ hj)
  · exact hj

theorem Calendar.addsNoEntry_finish (c : Calendar) (i : RecordNo) (e : Entry) (cause : FinishCause) :
    c.AddsNoEntry (c.finish i e cause) :=
  Calendar.addsNoEntry_putContent (i := i) (x := .finished e cause) fun _ _ => rfl

theorem Calendar.addsNoEntry_arm {c : Calendar} {i : RecordNo} {e e' : Entry} (r : Point)
    (h : c.records[i].content = .armed e) (howner : e'.owner = e.owner) (hkeep : e'.keep = e.keep) :
    c.AddsNoEntry (c.arm i e' r) := by
  refine Calendar.addsNoEntry_putContent (i := i)
    (x := .armed { e' with release := r, sequence := c.nextSequence }) fun q hq => ?_
  rw [h] at hq
  simpa only [EntryState.endsWith, howner, hkeep] using hq

/-! ### The armed list and the free-record queue (R66, R67) -/

/-- The lists are complete but for record `i`, which is not in the free-record queue and may be in the armed
list. -/
def Calendar.CompleteBut (c : Calendar) (i : RecordNo) : Prop :=
  c.armed.Nodup ∧ c.freeRecords.Nodup ∧ i ∉ c.freeRecords ∧
    ∀ j : RecordNo, j ≠ i → (j ∈ c.armed ↔ c.records[j].content.isArmed = true) ∧
      (j ∈ c.freeRecords ↔ c.records[j].content.isArmed = false)

theorem Calendar.completeBut_of_armed {c : Calendar} {i : RecordNo} {e : Entry} (hc : ArmedListComplete c)
    (h : c.records[i].content = .armed e) : c.CompleteBut i := by
  obtain ⟨harmed, hfree, hrecords⟩ := hc
  obtain ⟨-, hqueued⟩ := hrecords i
  rw [h] at hqueued
  have hnot : i ∉ c.freeRecords := fun hmem => by cases hqueued.1 hmem
  exact ⟨harmed, hfree, hnot, fun j _ => hrecords j⟩

theorem Calendar.insertArmed_perm (c : Calendar) (i : RecordNo) (r : Point) (armed : List RecordNo) :
    (c.insertArmed i r armed).Perm (i :: armed) := by
  rw [Calendar.insertArmed_eq]
  refine List.perm_middle.trans ?_
  rw [List.takeWhile_append_dropWhile]

theorem Calendar.arm_content (c : Calendar) (i j : RecordNo) (e : Entry) (r : Point) :
    (c.arm i e r).records[j].content =
      if j = i then .armed { e with release := r, sequence := c.nextSequence } else c.records[j].content := by
  change (c.putRecord i _).records[j].content = _
  rw [Calendar.putRecord_get]
  split <;> rfl

theorem Calendar.finish_content (c : Calendar) (i j : RecordNo) (e : Entry) (cause : FinishCause) :
    (c.finish i e cause).records[j].content = if j = i then .finished e cause else c.records[j].content := by
  change (c.putRecord i _).records[j].content = _
  rw [Calendar.putRecord_get]
  split <;> rfl

theorem Calendar.CompleteBut.arm {c : Calendar} {i : RecordNo} (h : c.CompleteBut i) (e : Entry) (r : Point) :
    ArmedListComplete (c.arm i e r) := by
  obtain ⟨harmed, hfree, hnot, hrecords⟩ := h
  refine ⟨?_, hfree, fun j => ?_⟩
  · refine (c.insertArmed_perm i r _).nodup_iff.2 (List.nodup_cons.2 ⟨?_, harmed.erase i⟩)
    exact harmed.not_mem_erase
  · rw [Calendar.arm_content]
    change (j ∈ c.insertArmed i r (c.armed.erase i) ↔ _) ∧ (j ∈ c.freeRecords ↔ _)
    rw [Calendar.mem_insertArmed]
    split
    · rename_i hji
      simp [hji, hnot, EntryState.isArmed]
    · rename_i hji
      rw [List.mem_erase_of_ne hji, or_iff_right hji]
      exact hrecords j hji

theorem Calendar.CompleteBut.finish {c : Calendar} {i : RecordNo} (h : c.CompleteBut i) (e : Entry)
    (cause : FinishCause) : ArmedListComplete (c.finish i e cause) := by
  obtain ⟨harmed, hfree, hnot, hrecords⟩ := h
  refine ⟨harmed.erase i, ?_, fun j => ?_⟩
  · change (c.freeRecords ++ [i]).Nodup
    exact List.nodup_append_comm.1 (List.nodup_cons.2 ⟨hnot, hfree⟩)
  · rw [Calendar.finish_content]
    change (j ∈ c.armed.erase i ↔ _) ∧ (j ∈ c.freeRecords ++ [i] ↔ _)
    rw [List.mem_append, List.mem_singleton]
    split
    · rename_i hji
      subst hji
      simp [harmed.not_mem_erase, EntryState.isArmed]
    · rename_i hji
      rw [List.mem_erase_of_ne hji, or_iff_left hji]
      exact hrecords j hji

/-- The record at the head of the free-record queue taken for a new entry (R71). -/
theorem Calendar.complete_take {c : Calendar} {i : RecordNo} {rest : List RecordNo} (hc : ArmedListComplete c)
    (hfree : c.freeRecords = i :: rest) (e : Entry) (r : Point) : ArmedListComplete (c.take i rest e r) := by
  obtain ⟨harmed, hnodup, hrecords⟩ := hc
  rw [hfree] at hnodup
  obtain ⟨hnot, hrest⟩ := List.nodup_cons.1 hnodup
  have htaken : Calendar.CompleteBut
      { c.putRecord i ⟨c.records[i].gen + 1, .free⟩ with freeRecords := rest } i := by
    refine ⟨harmed, hrest, hnot, fun j hji => ?_⟩
    change (j ∈ c.armed ↔ (c.putRecord i _).records[j].content.isArmed = true) ∧
      (j ∈ rest ↔ (c.putRecord i _).records[j].content.isArmed = false)
    rw [Calendar.putRecord_get, if_neg hji]
    have hj := hrecords j
    rw [hfree, List.mem_cons, or_iff_right hji] at hj
    exact hj
  exact htaken.arm e r

/-! ### What an operation does to what ports hold -/

/-- Session states stand, the armed list stays complete, no port is given a draft or an entry that ends with
its session, and a DETACHED port no record, setting or report. -/
structure KeepsHoldings (s t : State) : Prop where
  session : ∀ q, (t.ports.get q).session = (s.ports.get q).session
  departing : t.departing = s.departing
  complete : ArmedListComplete s.calendar → ArmedListComplete t.calendar
  entries : s.calendar.AddsNoEntry t.calendar
  drafts : s.store.AddsNoDraft t.store
  inbox : ∀ q, ¬ s.attached q → t.inboxes.get q = s.inboxes.get q
  reports : ∀ q, ¬ s.attached q → t.reports.get q = s.reports.get q

theorem KeepsHoldings.attached {s t : State} (h : KeepsHoldings s t) (q : Port) :
    t.attached q ↔ s.attached q := by
  simp only [State.attached, h.session]

theorem KeepsHoldings.trans {a b c : State} (h : KeepsHoldings a b) (k : KeepsHoldings b c) :
    KeepsHoldings a c where
  session q := (k.session q).trans (h.session q)
  departing := k.departing.trans h.departing
  complete hc := k.complete (h.complete hc)
  entries q i hi := k.entries q i (h.entries q i hi)
  drafts := h.drafts.trans k.drafts
  inbox q hq := (k.inbox q ((h.attached q).not.2 hq)).trans (h.inbox q hq)
  reports q hq := (k.reports q ((h.attached q).not.2 hq)).trans (h.reports q hq)

theorem KeepsHoldings.holdingsSound {s t : State} (h : KeepsHoldings s t) (hs : HoldingsSound s) :
    HoldingsSound t := by
  obtain ⟨hcomplete, hnothing⟩ := hs
  refine ⟨h.complete hcomplete, fun q hq hdetached => ?_⟩
  have hdetached' : ¬ s.attached q := (h.attached q).not.1 hdetached
  obtain ⟨hinbox, hreports, hdrafts, hentries⟩ := hnothing q hq hdetached'
  refine ⟨(h.inbox q hdetached').trans hinbox, ?_, ?_, fun i => h.entries q i (hentries i)⟩
  · rw [h.reports q hdetached']
    exact hreports
  · exact draftCount_eq_zero.2 fun i => h.drafts q i (draftCount_eq_zero.1 hdrafts i)

/-! ### What an operation does to roles -/

/-- The authority, the owners of lines and the attached ports stand; an arming and a hold stand or end. -/
structure KeepsRoles (s t : State) : Prop where
  authority : t.authority = s.authority
  owner : ∀ line, t.ownerOf line = s.ownerOf line
  arming : ∀ a, t.events.arming = some a → s.events.arming = some a
  held : t.calendar.releaseState = .held → s.calendar.releaseState = .held
  attached : ∀ q, s.attached q → t.attached q

theorem KeepsRoles.trans {a b c : State} (h : KeepsRoles a b) (k : KeepsRoles b c) : KeepsRoles a c where
  authority := k.authority.trans h.authority
  owner line := (k.owner line).trans (h.owner line)
  arming x hx := h.arming x (k.arming x hx)
  held hc := h.held (k.held hc)
  attached q hq := k.attached q (h.attached q hq)

theorem KeepsRoles.rolesSound {s t : State} (h : KeepsRoles s t) (hs : RolesSound s) : RolesSound t := by
  obtain ⟨⟨hnodup, hvacant, hholder, hwaiters⟩, hclaims, harming, hheld⟩ := hs
  refine ⟨⟨?_, ?_, ?_, ?_⟩, ?_, ?_, ?_⟩
  · rwa [h.authority]
  · rwa [h.authority]
  · rw [h.authority]
    exact fun x hx => ⟨h.attached _ (hholder x hx).1, (hholder x hx).2⟩
  · rw [h.authority]
    exact fun w hw => h.attached _ (hwaiters w hw)
  · intro line hline p hp
    rw [h.owner] at hp
    exact h.attached p (hclaims line hline p hp)
  · intro a ha
    obtain ⟨hport, howner⟩ := harming a (h.arming a ha)
    refine ⟨?_, (h.owner (.event a.line)).trans howner⟩
    rwa [State.isHolder, h.authority]
  · rw [h.authority]
    exact fun hc => hheld (h.held hc)

/-- What leaves sessions, authority, event lines and the hold alone keeps roles. -/
theorem keepsRoles_of_eq {s t : State} (hp : ∀ q, (t.ports.get q).session = (s.ports.get q).session)
    (ha : t.authority = s.authority) (he : t.events = s.events)
    (hr : t.calendar.releaseState = s.calendar.releaseState) : KeepsRoles s t where
  authority := ha
  owner line := by cases line <;> simp only [State.ownerOf, he]
  arming a h := by rwa [← he]
  held h := by rwa [← hr]
  attached q h := (hp q).trans h

/-! ### Both together -/

/-- What keeps what ports hold, and who holds what. -/
structure Keeps (s t : State) : Prop where
  holdings : KeepsHoldings s t
  roles : KeepsRoles s t

theorem Keeps.trans {a b c : State} (h : Keeps a b) (k : Keeps b c) : Keeps a c :=
  ⟨h.holdings.trans k.holdings, h.roles.trans k.roles⟩

/-- What keeps holdings and does not break roles breaks no promise. -/
theorem KeepsHoldings.sessionsSound {s t : State} (h : KeepsHoldings s t) (hr : RolesSound s → RolesSound t)
    (hs : SessionsSound s) : SessionsSound t := by
  obtain ⟨hdeparting, hholdings, hroles⟩ := sessionsSound_iff.1 hs
  exact sessionsSound_iff.2 ⟨h.departing.trans hdeparting, h.holdingsSound hholdings, hr hroles⟩

theorem Keeps.sessionsSound {s t : State} (h : Keeps s t) : SessionsSound s → SessionsSound t :=
  h.holdings.sessionsSound h.roles.rolesSound

/-- What leaves sessions, calendar, store, inboxes and reports alone keeps what ports hold. -/
theorem keepsHoldings_of_eq {s t : State} (hp : ∀ q, (t.ports.get q).session = (s.ports.get q).session)
    (hd : t.departing = s.departing) (hc : t.calendar = s.calendar) (hst : t.store = s.store)
    (hi : t.inboxes = s.inboxes) (hr : t.reports = s.reports) : KeepsHoldings s t where
  session := hp
  departing := hd
  complete h := by rwa [hc]
  entries q i h := by rwa [hc]
  drafts := Store.addsNoDraft_of_records (by rw [hst])
  inbox q _ := by rw [hi]
  reports q _ := by rw [hr]

/-- Times, outputs, the count of draws and the queue are nothing that a port holds. -/
theorem keeps_other (s : State) (t : TimeBase) (o : PerOut OutStage) (n : Nat) (q : List Instr) :
    Keeps s { s with time := t, outputs := o, draws := n, pending := q } :=
  ⟨keepsHoldings_of_eq (fun _ => rfl) rfl rfl rfl rfl rfl, keepsRoles_of_eq (fun _ => rfl) rfl rfl rfl⟩

theorem Keeps.refl (s : State) : Keeps s s := keeps_other s s.time s.outputs s.draws s.pending

theorem keeps_foldl {α : Type} {f : State → α → State} (h : ∀ s x, Keeps s (f s x)) (l : List α)
    (s : State) : Keeps s (l.foldl f s) := by
  induction l generalizing s with
  | nil => exact .refl s
  | cons x l ih => exact (h s x).trans (ih (f s x))

theorem keeps_time (s : State) (t : TimeBase) : Keeps s { s with time := t } :=
  keeps_other s t s.outputs s.draws s.pending

theorem keeps_putOut (s : State) (o : OutLine) (x : OutStage) : Keeps s (s.putOut o x) :=
  keeps_other s s.time _ s.draws s.pending

/-- A port's slot, number, reset input and SDOn are nothing that it holds. -/
theorem keeps_putPort {s : State} {p : Port} {x : HostPort} (h : x.session = (s.ports.get p).session) :
    Keeps s (s.putPort p x) := by
  have hp : ∀ q, ((s.putPort p x).ports.get q).session = (s.ports.get q).session := by
    intro q
    rw [State.putPort_ports, PerPort.get_put_eq]
    split
    · rename_i hq
      rw [hq, h]
    · rfl
  exact ⟨keepsHoldings_of_eq hp rfl rfl rfl rfl rfl, keepsRoles_of_eq hp rfl rfl rfl⟩

theorem keeps_store {s : State} {st : Store} (h : s.store.AddsNoDraft st) : Keeps s { s with store := st } where
  holdings := ⟨fun _ => rfl, rfl, id, fun _ _ => id, h, fun _ _ => rfl, fun _ _ => rfl⟩
  roles := keepsRoles_of_eq (fun _ => rfl) rfl rfl rfl

theorem keeps_calendar {s : State} {c : Calendar} (hc : ArmedListComplete s.calendar → ArmedListComplete c)
    (he : s.calendar.AddsNoEntry c) (hr : c.releaseState = .held → s.calendar.releaseState = .held) :
    Keeps s { s with calendar := c } where
  holdings := ⟨fun _ => rfl, rfl, hc, he, Store.addsNoDraft_of_records rfl, fun _ _ => rfl, fun _ _ => rfl⟩
  roles := ⟨rfl, fun line => by cases line <;> rfl, fun _ => id, hr, fun _ => id⟩

theorem get_put_of_attached {α : Type} {s : State} {p q : Port} (v : PerPort α) (x : α) (h : s.attached p)
    (hq : ¬ s.attached q) : (v.put p x).get q = v.get q :=
  PerPort.get_put_of_ne v x fun hqp => hq (hqp ▸ h)

theorem keeps_putInbox {s : State} {p : Port} (x : Inbox) (h : s.attached p) : Keeps s (s.putInbox p x) where
  holdings := ⟨fun _ => rfl, rfl, id, fun _ _ => id, Store.addsNoDraft_of_records rfl,
    fun _ hq => get_put_of_attached _ x h hq, fun _ _ => rfl⟩
  roles := keepsRoles_of_eq (fun _ => rfl) rfl rfl rfl

theorem keeps_putReports {s : State} {p : Port} (x : ReportQueue) (h : s.attached p) :
    Keeps s (s.putReports p x) where
  holdings := ⟨fun _ => rfl, rfl, id, fun _ _ => id, Store.addsNoDraft_of_records rfl,
    fun _ _ => rfl, fun _ hq => get_put_of_attached _ x h hq⟩
  roles := keepsRoles_of_eq (fun _ => rfl) rfl rfl rfl

/-- Event lines with the same owners, and an arming that stands or ends. -/
theorem keeps_events {s : State} {x : EventUnit} (ho : ∀ l, (x.lines.get l).owner = (s.events.lines.get l).owner)
    (hout : x.outOwner = s.events.outOwner) (ha : ∀ a, x.arming = some a → s.events.arming = some a) :
    Keeps s { s with events := x } where
  holdings := keepsHoldings_of_eq (fun _ => rfl) rfl rfl rfl rfl rfl
  roles :=
    { authority := rfl
      owner := fun line => by
        cases line with
        | event l => exact ho l
        | output o => exact congrArg (·.get o) hout
      arming := ha
      held := id
      attached := fun _ => id }

theorem keeps_putLine {s : State} {l : EvLine} {x : EventLine} (h : x.owner = (s.events.lines.get l).owner) :
    Keeps s (s.putLine l x) := by
  refine keeps_events (fun k => ?_) rfl fun _ => id
  rw [PerEv.get_put_eq]
  split
  · rename_i hk
    rw [hk, h]
  · rfl

theorem keeps_disarmed (s : State) : Keeps s (s.putArming none) := keeps_events (fun _ => rfl) rfl nofun

/-! ### Reports and references -/

theorem keeps_report (p : Port) (cause : Stamp) (b : ReportBody) (s : State) : Keeps s (report p cause b s) := by
  unfold report
  split
  · rename_i h
    obtain ⟨hp, -⟩ := h
    exact keeps_putReports _ hp
  · exact .refl s

theorem keeps_reportNow (p : Port) (b : ReportBody) (s : State) : Keeps s (reportNow p b s) :=
  keeps_report _ _ _ _

theorem keeps_reportHolder (b : ReportBody) (s : State) : Keeps s (reportHolder b s) := by
  unfold reportHolder
  split
  · exact keeps_reportNow _ _ s
  · exact .refl s

theorem keeps_cancelArming (cause : CancelCause) (s : State) : Keeps s (cancelArming cause s) := by
  unfold cancelArming
  split
  · exact .refl s
  · exact (keeps_disarmed s).trans (keeps_reportNow _ _ _)

theorem keeps_takeReference (i : RecordNo) (s : State) : Keeps s (takeReference i s) :=
  keeps_store (s.store.addsNoDraft_takeReference i)

theorem keeps_dropReference (i : RecordNo) (s : State) : Keeps s (dropReference i s) :=
  keeps_store (s.store.addsNoDraft_dropReference i)

/-! ### Entries and releases (R73 to R76) -/

theorem keeps_arm {s : State} {i : RecordNo} {e e' : Entry} (r : Point)
    (h : s.calendar.records[i].content = .armed e) (howner : e'.owner = e.owner) (hkeep : e'.keep = e.keep) :
    Keeps s { s with calendar := s.calendar.arm i e' r } :=
  keeps_calendar (fun hc => (Calendar.completeBut_of_armed hc h).arm e' r)
    (Calendar.addsNoEntry_arm r h howner hkeep) id

theorem keeps_dropEntryReference (e : Entry) (s : State) : Keeps s (dropEntryReference e s) := by
  unfold dropEntryReference
  split
  · exact keeps_dropReference _ s
  · exact .refl s

theorem keeps_finishEntry {s : State} {i : RecordNo} {e : Entry} (e' : Entry) (cause : FinishCause)
    (h : s.calendar.records[i].content = .armed e) : Keeps s (finishEntry i e' cause s) := by
  have hfinish : Keeps s { s with calendar := s.calendar.finish i e' cause } :=
    keeps_calendar (fun hc => (Calendar.completeBut_of_armed hc h).finish e' cause)
      (s.calendar.addsNoEntry_finish i e' cause) id
  exact hfinish.trans (keeps_dropEntryReference e' _)

theorem attached_of_placementTest {s : State} {p : Port} (h : placementTest s p = none) : s.attached p := by
  unfold placementTest at h
  split at h
  · cases h
  · rename_i hp
    exact not_not.1 hp

/-- Only an attached target is given a record (R95). -/
theorem keeps_visit (o : Occurrence) (h : Handle) (x : Placement) (p : Port) :
    Keeps x.state (visit o h x p).state := by
  unfold visit
  split
  · exact .refl _
  · rename_i htest
    exact (keeps_putInbox _ (attached_of_placementTest htest)).trans (keeps_takeReference _ _)

theorem keeps_placeAll (o : Occurrence) (ts : PerPort Bool) (h : Handle) (s : State) :
    Keeps s (placeAll o ts h s).state := by
  have go : ∀ (ps : List Port) (x : Placement), Keeps x.state (ps.foldl (visit o h) x).state := by
    intro ps
    induction ps with
    | nil => exact fun x => .refl x.state
    | cons p rest ih => exact fun x => (keeps_visit o h x p).trans (ih _)
  exact go (Port.all.filter fun p => ts.get p) ⟨s, ⟨false, false, false, false⟩, []⟩

theorem keeps_handOn (o : Occurrence) (a : EntryAction) (s : State) : Keeps s (handOn o a s).1 := by
  cases a with
  | deliver ts h =>
    change Keeps s (deliverOccurrence o ts h s).1
    unfold deliverOccurrence
    dsimp only
    split
    · exact keeps_placeAll o ts h s
    · exact (keeps_placeAll o ts h s).trans (keeps_reportNow _ _ _)
  | line out act =>
    by_cases h : s.events.outOwner.get out = some o.owner
    · rw [handOn_line_driven act h]
      exact keeps_putOut s out _
    · rw [handOn_line_refused act h]
      exact keeps_reportNow _ _ s

theorem keeps_reportRelease (e : Entry) (o : Occurrence) (x : ReleaseOutcome) (s : State) :
    Keeps s (reportRelease e o x s) := by
  unfold reportRelease
  split
  · exact keeps_reportNow _ _ s
  · exact .refl s

theorem reportRelease_calendar (e : Entry) (o : Occurrence) (x : ReleaseOutcome) (s : State) :
    (reportRelease e o x s).calendar = s.calendar := by
  unfold reportRelease
  split
  · exact reportNow_calendar _ _ s
  · rfl

theorem keeps_settleFate {s : State} {i : RecordNo} {e e' : Entry} (h : Handle) (fate : Fate)
    (harmed : s.calendar.records[i].content = .armed e) (howner : e'.owner = e.owner)
    (hkeep : e'.keep = e.keep) : Keeps s (settleFate i h e' fate s) := by
  cases fate with
  | rearm next => exact keeps_arm next harmed howner hkeep
  | finish cause => exact (keeps_finishEntry e' cause harmed).trans (keeps_reportNow _ _ _)

theorem keeps_releaseEntry (late : Bool) (s : State) (i : RecordNo) : Keeps s (releaseEntry late s i) := by
  unfold releaseEntry
  split
  · rename_i e he
    refine ((keeps_handOn _ _ s).trans (keeps_reportRelease _ _ _ _)).trans
      (keeps_settleFate (e := e) _ _ ?_ rfl rfl)
    rw [reportRelease_calendar, handOn_calendar]
    exact he
  · exact .refl s

theorem keeps_releaseDue (late : Bool) (s : State) : Keeps s (releaseDue late s) :=
  keeps_foldl (keeps_releaseEntry late) _ s

theorem keeps_releaseIfRunning (late : Bool) (s : State) : Keeps s (releaseIfRunning late s) := by
  unfold releaseIfRunning
  split
  · exact keeps_releaseDue late s
  · exact .refl s

theorem keeps_releaseIfDue (late : Bool) (i : RecordNo) (r : Point) (s : State) :
    Keeps s (releaseIfDue late i r s) := by
  unfold releaseIfDue
  split
  · exact keeps_releaseEntry late s i
  · exact .refl s

theorem keeps_resume (s : State) : Keeps s (resume s) := by
  by_cases h : s.running
  · rw [resume_running h]
    exact .refl s
  · rw [resume_held h]
    have hrunning : Keeps s { s with calendar := { s.calendar with releaseState := .running } } :=
      keeps_calendar id (fun _ _ => id) nofun
    exact hrunning.trans (keeps_releaseDue true _)

/-! ### Time changes, slews and the clock (R4, R10, R18) -/

theorem keeps_changeTime (new : Point) (frac : Nat) (ts : TimeState) (cause : ChangeCause) (s : State) :
    Keeps s (changeTime new frac ts cause s) :=
  ((keeps_time s _).trans (keeps_foldl (fun s p => keeps_report p _ _ s) Port.all _)).trans
    (keeps_releaseIfRunning true _)

theorem keeps_endSlew (cause : SlewCause) (s : State) : Keeps s (endSlew cause s) := by
  unfold endSlew
  split
  · exact .refl s
  · exact (keeps_time s _).trans (keeps_reportHolder _ _)

theorem keeps_slewEnd (s : State) : Keeps s (slewEnd s) := by
  unfold slewEnd
  split
  · split
    · exact keeps_endSlew _ s
    · exact .refl s
  · exact .refl s

theorem keeps_pulseEnd (o : OutLine) (s : State) : Keeps s (pulseEnd o s) := by
  rw [pulseEnd_eq]
  exact keeps_putOut s o _

theorem keeps_takeEnd (n : Nat) (s : State) : Keeps s (takeEnd n s) := by
  unfold takeEnd
  split
  · exact keeps_slewEnd s
  · exact keeps_pulseEnd _ s
  · exact keeps_pulseEnd _ s
  · exact keeps_pulseEnd _ s
  · exact keeps_pulseEnd _ s
  · exact .refl s

theorem keeps_takeEnds (l : List Nat) (s : State) : Keeps s (l.foldl (fun s k => takeEnd k s) s) :=
  keeps_foldl (fun s k => keeps_takeEnd k s) l s

theorem keeps_advance (s : State) : Keeps s (advance s) := by
  unfold advance
  dsimp only
  split
  · exact (keeps_time s _).trans (keeps_changeTime _ _ _ _ _)
  · exact (keeps_time s _).trans (keeps_releaseIfRunning false _)

theorem keeps_settleTick (s : State) : Keeps s s.settleTick := keeps_time s _

end Sys2Proof.Machine

/-! The operations that hand roles over and take holdings away: the loss of the authority, the release of lines,
and the end of a session (R33, R34, R112, R169). -/

namespace Sys2Proof.Machine

/-! ### The authority (R23, R25 to R34) -/

/-- The port neither holds the authority nor waits for it. -/
def Authority.Without (a : Authority) (p : Port) : Prop :=
  (∀ h ∈ a.holder, h.port ≠ p) ∧ ∀ w ∈ a.waiters, w.port ≠ p

theorem keepsHoldings_authority (s : State) (a : Authority) : KeepsHoldings s { s with authority := a } :=
  keepsHoldings_of_eq (fun _ => rfl) rfl rfl rfl rfl rfl

/-- An attached port made holder of a VACANT authority, or its lease restarted. -/
theorem rolesSound_grant {s : State} {p : Port} (lease : Nat) (hs : RolesSound s) (hp : s.attached p)
    (h : s.authority.holder = none ∨ s.isHolder p) : RolesSound (grant p lease s) := by
  obtain ⟨⟨hnodup, hvacant, hholder, hwaiters⟩, hclaims, harming, hheld⟩ := hs
  have hnot : ∀ w ∈ s.authority.waiters, w.port ≠ p := by
    rcases h with hnone | hp
    · rw [hvacant hnone]
      exact fun _ hw => absurd hw List.not_mem_nil
    · obtain ⟨x, hx, rfl⟩ := Option.map_eq_some_iff.1 hp
      exact (hholder x hx).2
  refine ⟨⟨hnodup, nofun, fun x hx => ?_, hwaiters⟩, hclaims, fun a ha => ?_, fun _ => nofun⟩
  · obtain rfl : _ = x := Option.some.inj hx
    exact ⟨hp, hnot⟩
  · obtain ⟨hport, howner⟩ := harming a ha
    refine ⟨?_, howner⟩
    rcases h with hnone | hp
    · rw [State.isHolder, hnone] at hport
      cases hport
    · exact hp.symm.trans hport

/-- A waiter queue replaced by one that the holder allows (R23). -/
theorem rolesSound_waiters {s : State} {ws : List Waiter} (hs : RolesSound s)
    (hnodup : (ws.map (·.port)).Nodup) (hvacant : s.authority.holder = none → ws = [])
    (hnot : ∀ h ∈ s.authority.holder, ∀ w ∈ ws, w.port ≠ h.port) (hattached : ∀ w ∈ ws, s.attached w.port) :
    RolesSound { s with authority := { s.authority with waiters := ws } } := by
  obtain ⟨⟨-, -, hholder, -⟩, hclaims, hguarded⟩ := hs
  exact ⟨⟨hnodup, hvacant, fun h hh => ⟨(hholder h hh).1, hnot h hh⟩, hattached⟩, hclaims, hguarded⟩

theorem rolesSound_dropWaiter {s : State} (p : Port) (hs : RolesSound s) : RolesSound (dropWaiter p s) := by
  obtain ⟨⟨hnodup, hvacant, hholder, hwaiters⟩, -⟩ := id hs
  have hsub := List.filter_sublist (l := s.authority.waiters) (p := fun w => decide (w.port ≠ p))
  refine rolesSound_waiters hs (hnodup.sublist (hsub.map _)) (fun hnone => ?_)
    (fun h hh w hw => (hholder h hh).2 w (hsub.subset hw)) fun w hw => hwaiters w (hsub.subset hw)
  rw [hvacant hnone, List.filter_nil]

/-- A port joins the tail of the queue (R26). -/
theorem rolesSound_join {s : State} {h : Holder} {p : Port} (lease : Nat) (hs : RolesSound s)
    (hp : s.attached p) (hh : s.authority.holder = some h) (hport : h.port ≠ p)
    (hnot : ∀ w ∈ s.authority.waiters, w.port ≠ p) :
    RolesSound { s with
      authority := { s.authority with waiters := s.authority.waiters ++ [⟨p, lease⟩] } } := by
  obtain ⟨⟨hnodup, -, hholder, hwaiters⟩, -⟩ := id hs
  refine rolesSound_waiters hs ?_ (fun hnone => ?_) (fun x hx w hw => ?_) fun w hw => ?_
  · rw [List.map_append]
    refine List.nodup_append_comm.1 (List.nodup_cons.2 ⟨fun hmem => ?_, hnodup⟩)
    obtain ⟨w, hw, hwp⟩ := List.mem_map.1 hmem
    exact hnot w hw hwp
  · rw [hh] at hnone
    cases hnone
  · obtain rfl : h = x := Option.some.inj (hh.symm.trans hx)
    rcases List.mem_append.1 hw with hold | hnew
    · exact (hholder h hh).2 w hold
    · rw [List.mem_singleton.1 hnew]
      exact hport.symm
  · rcases List.mem_append.1 hw with hold | hnew
    · exact hwaiters w hold
    · rw [List.mem_singleton.1 hnew]
      exact hp

theorem keeps_reportLoss (h : Holder) (cause : LossCause) (s : State) : Keeps s (reportLoss h cause s) := by
  unfold reportLoss
  split
  · exact keeps_reportNow _ _ s
  · exact .refl s

theorem keepsHoldings_handover (former : Port) (cause : LossCause) (s : State) :
    KeepsHoldings s (handover former cause s) := by
  cases hw : s.authority.waiters with
  | nil =>
    rw [handover_vacant former cause hw]
    exact (Keeps.refl s).holdings
  | cons w rest =>
    rw [handover_granted former cause hw]
    exact (keepsHoldings_authority s _).trans (keeps_report _ _ _ _).holdings

theorem keepsHoldings_loseAuthority (h : Holder) (cause : LossCause) (s : State) :
    KeepsHoldings s (loseAuthority h cause s) := by
  unfold loseAuthority
  refine .trans ?_ (keepsHoldings_handover h.port cause _)
  refine .trans ?_ (keeps_resume _).holdings
  refine .trans ?_ (keeps_cancelArming .authorityLost _).holdings
  exact (keepsHoldings_authority s _).trans (keeps_reportLoss h cause _).holdings

/-- The loss hands the authority to the oldest waiter, ends the arming and the hold, and moves no claim
(R33, R34). -/
theorem rolesSound_loseAuthority (h : Holder) (cause : LossCause) {s : State} (hs : RolesSound s) :
    RolesSound (loseAuthority h cause s) := by
  obtain ⟨⟨hauthority, hevents, hrunning, -, hports, -⟩, -⟩ := authorityLoss_loseAuthority h cause s
  generalize loseAuthority h cause s = t at *
  obtain ⟨⟨hnodup, -, -, hwaiters⟩, hclaims, -⟩ := hs
  have hattached : ∀ q, t.attached q ↔ s.attached q := fun q => by simp only [State.attached, hports]
  refine ⟨?_, fun line hline p hp => ?_, fun a ha => ?_, fun hheld => ?_⟩
  · unfold AuthoritySound
    simp only [hattached, hauthority]
    cases hws : s.authority.waiters with
    | nil => exact ⟨List.nodup_nil, fun _ => rfl, nofun, nofun⟩
    | cons w rest =>
      rw [hws] at hnodup hwaiters
      obtain ⟨hout, hrest⟩ := List.nodup_cons.1 hnodup
      refine ⟨hrest, nofun, fun x hx => ?_, fun x hx => hwaiters x (List.mem_cons_of_mem _ hx)⟩
      obtain rfl : _ = x := Option.some.inj hx
      exact ⟨hwaiters w List.mem_cons_self, fun y hy hyw => hout (List.mem_map.2 ⟨y, hy, hyw⟩)⟩
  · have howner : t.ownerOf line = s.ownerOf line := by
      cases line <;> simp only [State.ownerOf, hevents]
    rw [howner] at hp
    exact (hattached p).2 (hclaims line hline p hp)
  · rw [hevents] at ha
    cases ha
  · rw [hrunning] at hheld
    cases hheld

/-- The former holder is nowhere in the authority after the loss, since nobody waits twice (R23). -/
theorem loseAuthority_without {s : State} {h : Holder} (cause : LossCause) (hs : RolesSound s)
    (hh : s.authority.holder = some h) : (loseAuthority h cause s).authority.Without h.port := by
  obtain ⟨⟨hauthority, -⟩, -⟩ := authorityLoss_loseAuthority h cause s
  obtain ⟨⟨-, -, hholder, -⟩, -⟩ := hs
  have hnot := (hholder h hh).2
  rw [hauthority]
  refine ⟨fun x hx => ?_, fun w hw => hnot w (List.mem_of_mem_tail hw)⟩
  obtain ⟨w, hw, rfl⟩ := Option.map_eq_some_iff.1 hx
  exact hnot w (List.mem_of_mem_head? hw)

theorem dropWaiter_without {s : State} {p : Port} (h : ∀ x ∈ s.authority.holder, x.port ≠ p) :
    (dropWaiter p s).authority.Without p :=
  ⟨h, fun _ hw => of_decide_eq_true (List.mem_filter.1 hw).2⟩

/-- The Time Authority's part of a session end (R37): the port no longer holds the authority nor waits. -/
theorem endAuthority_effect {s : State} (p : Port) (hs : RolesSound s) :
    KeepsHoldings s (endAuthority p s) ∧ RolesSound (endAuthority p s) ∧
      (endAuthority p s).authority.Without p := by
  have hdropped : KeepsHoldings s (dropWaiter p s) ∧ RolesSound (dropWaiter p s) :=
    ⟨keepsHoldings_authority s _, rolesSound_dropWaiter p hs⟩
  unfold endAuthority
  split
  · rename_i h hh
    split
    · rename_i hp
      subst hp
      exact ⟨keepsHoldings_loseAuthority h .detached s, rolesSound_loseAuthority h .detached hs,
        loseAuthority_without .detached hs hh⟩
    · rename_i hp
      refine ⟨hdropped.1, hdropped.2, dropWaiter_without fun x hx => ?_⟩
      exact Option.some.inj (hh.symm.trans hx) ▸ hp
  · rename_i hnone
    exact ⟨hdropped.1, hdropped.2, dropWaiter_without fun x hx => by rw [hnone] at hx; cases hx⟩

theorem sessionsSound_leaseExpiry {s : State} (hs : SessionsSound s) : SessionsSound (leaseExpiry s) := by
  unfold leaseExpiry
  split
  · rename_i h _
    split
    · exact (keepsHoldings_loseAuthority h _ s).sessionsSound (rolesSound_loseAuthority h _) hs
    · exact hs
  · exact hs

/-! ### Claims of lines and the arming (R110 to R127) -/

theorem keepsHoldings_events (s : State) (x : EventUnit) : KeepsHoldings s { s with events := x } :=
  keepsHoldings_of_eq (fun _ => rfl) rfl rfl rfl rfl rfl

theorem ownerOf_putLine (s : State) (l : EvLine) (x : EventLine) (line : Line) :
    (s.putLine l x).ownerOf line = if line = .event l then x.owner else s.ownerOf line := by
  cases line with
  | event k =>
    simp only [State.ownerOf, State.putLine_events, PerEv.get_put_eq, Line.event.injEq]
    split <;> rfl
  | output o => rfl

theorem ownerOf_putOutOwner (s : State) (o : OutLine) (x : Option Port) (line : Line) :
    (s.putOutOwner o x).ownerOf line = if line = .output o then x else s.ownerOf line := by
  cases line with
  | event k => rfl
  | output k =>
    simp only [State.ownerOf, State.putOutOwner_events, PerOut.get_put_eq, Line.output.injEq]

/-- The claim table changed in one row: the new owner is attached, and no arming rests on the old one. -/
theorem rolesSound_of_owner {s t : State} {line : Line} (hs : RolesSound s)
    (howner : ∀ k, k ≠ line → t.ownerOf k = s.ownerOf k) (hnew : ∀ p, t.ownerOf line = some p → s.attached p)
    (hfree : ∀ a, s.events.arming = some a → Line.event a.line ≠ line)
    (hports : t.ports = s.ports) (hauthority : t.authority = s.authority)
    (harming : t.events.arming = s.events.arming)
    (hheld : t.calendar.releaseState = s.calendar.releaseState) : RolesSound t := by
  obtain ⟨hauth, hclaims, hguard, hhold⟩ := hs
  have hattached : ∀ q, t.attached q ↔ s.attached q := fun q => by simp only [State.attached, hports]
  refine ⟨?_, fun k hk p hp => ?_, fun a ha => ?_, ?_⟩
  · unfold AuthoritySound
    simpa only [hattached, hauthority] using hauth
  · rw [hattached]
    by_cases hkl : k = line
    · exact hnew p (hkl ▸ hp)
    · rw [howner k hkl] at hp
      exact hclaims k hk p hp
  · rw [harming] at ha
    obtain ⟨hport, hown⟩ := hguard a ha
    refine ⟨?_, (howner _ (hfree a ha)).trans hown⟩
    rwa [State.isHolder, hauthority]
  · rwa [hheld, hauthority]

/-- No arming rests on a line that nobody owns (R121). -/
theorem RolesSound.arming_ne {s : State} {line : Line} (hs : RolesSound s) (h : s.ownerOf line = none) :
    ∀ a, s.events.arming = some a → Line.event a.line ≠ line := by
  rintro a ha rfl
  obtain ⟨-, -, hguard, -⟩ := hs
  have howner : s.ownerOf (.event a.line) = some a.port := (hguard a ha).2
  rw [h] at howner
  cases howner

theorem keeps_cancelArmingOn (l : EvLine) (s : State) : Keeps s (cancelArmingOn l s) := by
  unfold cancelArmingOn
  split
  · split
    · exact keeps_cancelArming _ s
    · exact .refl s
  · exact .refl s

theorem cancelArmingOn_arming_ne (l : EvLine) (s : State) :
    ∀ a, (cancelArmingOn l s).events.arming = some a → Line.event a.line ≠ .event l := by
  intro a ha hl
  unfold cancelArmingOn at ha
  split at ha
  · rename_i x hx
    split at ha
    · rw [cancelArming_events] at ha
      cases ha
    · rename_i hne
      obtain rfl : x = a := Option.some.inj (hx.symm.trans ha)
      exact hne (Line.event.inj hl)
  · rename_i hnone
    rw [hnone] at ha
    cases ha

/-- After the release of a line it has no owner, and every other line the owner it had (R112). -/
theorem ownerOf_releaseOf (line : Line) (s : State) (k : Line) :
    (releaseOf line s).ownerOf k = if k = line then none else s.ownerOf k := by
  cases line with
  | event l =>
    change ((cancelArmingOn l s).putLine l _).ownerOf k = _
    rw [ownerOf_putLine, (keeps_cancelArmingOn l s).roles.owner]
    rfl
  | output o => exact ownerOf_putOutOwner _ o none k

theorem keepsHoldings_releaseOf (line : Line) (s : State) : KeepsHoldings s (releaseOf line s) := by
  cases line with
  | event l => exact (keeps_cancelArmingOn l s).holdings.trans (keepsHoldings_events _ _)
  | output o => exact (keeps_putOut s o .idle).holdings.trans (keepsHoldings_events _ _)

theorem releaseOf_authority (line : Line) (s : State) : (releaseOf line s).authority = s.authority := by
  cases line with
  | event l => exact (keeps_cancelArmingOn l s).roles.authority
  | output o => rfl

theorem rolesSound_releaseOf (line : Line) {s : State} (hs : RolesSound s) : RolesSound (releaseOf line s) := by
  have howner : ∀ k, k ≠ line → (releaseOf line s).ownerOf k = s.ownerOf k := fun k hk => by
    rw [ownerOf_releaseOf, if_neg hk]
  have hnone : (releaseOf line s).ownerOf line = none := by rw [ownerOf_releaseOf, if_pos rfl]
  cases line with
  | event l =>
    have hkept := (keeps_cancelArmingOn l s).roles
    refine rolesSound_of_owner (hkept.rolesSound hs) (fun k hk => (howner k hk).trans (hkept.owner k).symm)
      (fun p hp => ?_) (cancelArmingOn_arming_ne l s) rfl rfl rfl rfl
    rw [hnone] at hp
    cases hp
  | output o =>
    refine rolesSound_of_owner hs howner (fun p hp => ?_) (fun _ _ => nofun) rfl rfl rfl rfl
    rw [hnone] at hp
    cases hp

/-- A step for each element that clears what belongs to it, and keeps clear what is, clears the list. -/
theorem foldl_clears {σ α : Type} {f : σ → α → σ} {P : α → σ → Prop} (hclear : ∀ s x, P x (f s x))
    (hkeep : ∀ s x y, P y s → P y (f s x)) (l : List α) (s : σ) {y : α} (h : y ∈ l ∨ P y s) :
    P y (l.foldl f s) := by
  induction l generalizing s with
  | nil => exact h.resolve_left List.not_mem_nil
  | cons x rest ih =>
    refine ih (f s x) ?_
    rcases h with hmem | hdone
    · rcases List.mem_cons.1 hmem with rfl | hrest
      · exact .inr (hclear s y)
      · exact .inl hrest
    · exact .inr (hkeep s x y hdone)

/-- A line of the port released, another's left. -/
def endClaim (p : Port) (s : State) (line : Line) : State :=
  if s.ownerOf line = some p then releaseOf line s else s

theorem endClaims_eq (p : Port) (s : State) : endClaims p s = Line.all.foldl (endClaim p) s := rfl

theorem ownerOf_endClaim (p : Port) (s : State) (line k : Line) :
    (endClaim p s line).ownerOf k = if k = line ∧ s.ownerOf k = some p then none else s.ownerOf k := by
  unfold endClaim
  by_cases h : s.ownerOf line = some p
  · rw [if_pos h, ownerOf_releaseOf]
    by_cases hk : k = line
    · rw [if_pos hk, if_pos ⟨hk, hk ▸ h⟩]
    · rw [if_neg hk, if_neg fun x => hk x.1]
  · rw [if_neg h, if_neg]
    rintro ⟨rfl, hk⟩
    exact h hk

/-- The end of a port's session leaves it no line (R129). -/
theorem ownerOf_endClaims (p : Port) (s : State) (line : Line) : (endClaims p s).ownerOf line ≠ some p := by
  rw [endClaims_eq]
  refine foldl_clears (P := fun line s => s.ownerOf line ≠ some p) (fun s x => ?_) (fun s x y hy => ?_)
    Line.all s (.inl line.mem_all)
  · rw [ownerOf_endClaim]
    split
    · nofun
    · rename_i h
      exact fun hx => h ⟨rfl, hx⟩
  · rw [ownerOf_endClaim, if_neg fun h => hy h.2]
    exact hy

/-- The Event Line Unit's part of a session end touches no holding and no authority. -/
theorem endClaims_effect (p : Port) {s : State} (hs : RolesSound s) :
    KeepsHoldings s (endClaims p s) ∧ RolesSound (endClaims p s) ∧ (endClaims p s).authority = s.authority := by
  rw [endClaims_eq]
  induction Line.all generalizing s with
  | nil => exact ⟨(Keeps.refl s).holdings, hs, rfl⟩
  | cons line rest ih =>
    have hone : KeepsHoldings s (endClaim p s line) ∧ RolesSound (endClaim p s line) ∧
        (endClaim p s line).authority = s.authority := by
      unfold endClaim
      split
      · exact ⟨keepsHoldings_releaseOf line s, rolesSound_releaseOf line hs, releaseOf_authority line s⟩
      · exact ⟨(Keeps.refl s).holdings, hs, rfl⟩
    obtain ⟨hholdings, hroles, hauthority⟩ := hone
    obtain ⟨hholdings', hroles', hauthority'⟩ := ih hroles
    exact ⟨hholdings.trans hholdings', hroles', hauthority'.trans hauthority⟩

/-! ### The end of a session (R169, Table 9-2) -/

theorem keeps_endEntry (p : Port) (s : State) (i : RecordNo) : Keeps s (endEntry p s i) := by
  unfold endEntry
  split
  · rename_i e he
    split
    · exact keeps_finishEntry e .ownerDetached he
    · exact .refl s
  · exact .refl s

theorem endEntry_clears (p : Port) (s : State) (i : RecordNo) :
    (endEntry p s i).calendar.records[i].content.endsWith p = false := by
  unfold endEntry
  split
  · rename_i e he
    split
    · simp only [finishEntry_calendar, Calendar.finish_content, if_true]
      rfl
    · rename_i hnot
      rw [he]
      simpa [EntryState.endsWith] using hnot
  · rename_i hnot
    unfold EntryState.endsWith
    split
    · rename_i e he
      exact absurd he (hnot e)
    · rfl

/-- The Calendar's part of a session end finishes every entry of the port without KEEP (R89). -/
theorem endEntries_clears (p : Port) {s : State} (hs : ArmedListComplete s.calendar) (i : RecordNo) :
    (endEntries p s).calendar.records[i].content.endsWith p = false := by
  refine foldl_clears (P := fun i s => s.calendar.records[i].content.endsWith p = false) (endEntry_clears p)
    (fun s x y hy => (keeps_endEntry p s x).holdings.entries p y hy) s.calendar.armed s ?_
  obtain ⟨-, -, hrecords⟩ := hs
  by_cases hi : i ∈ s.calendar.armed
  · exact .inl hi
  · right
    have hnot := (hrecords i).1.not.1 hi
    unfold EntryState.endsWith
    split
    · rename_i e he
      rw [he] at hnot
      exact absurd rfl hnot
    · rfl

theorem keeps_endEntries (p : Port) (s : State) : Keeps s (endEntries p s) :=
  keeps_foldl (keeps_endEntry p) _ s

/-- A draft of the port abandoned, any other record left. -/
def Store.abandonDraftAt (p : Port) (st : Store) (i : RecordNo) : Store :=
  match st.records[i].content with
  | .draft m => if m.sender = p then st.release i m else st
  | _ => st

theorem Store.abandonDrafts_eq (st : Store) (p : Port) :
    st.abandonDrafts p = (List.finRange 128).foldl (Store.abandonDraftAt p) st := rfl

theorem Store.addsNoDraft_abandonDraftAt (p : Port) (st : Store) (i : RecordNo) :
    st.AddsNoDraft (st.abandonDraftAt p i) := by
  unfold Store.abandonDraftAt
  split
  · split
    · exact st.addsNoDraft_release i _
    · exact Store.addsNoDraft_of_records rfl
  · exact Store.addsNoDraft_of_records rfl

theorem Store.abandonDraftAt_clears (p : Port) (st : Store) (i : RecordNo) :
    (st.abandonDraftAt p i).records[i].content.isDraftOf p = false := by
  unfold Store.abandonDraftAt
  split
  · rename_i m hm
    split
    · change ((st.putRecord i _).records[i]).content.isDraftOf p = false
      rw [Store.putRecord_get, if_pos rfl]
      rfl
    · rename_i hnot
      rw [hm]
      exact decide_eq_false hnot
  · rename_i hnot
    unfold MessageState.isDraftOf
    split
    · rename_i m hm
      exact absurd hm (hnot m)
    · rfl

theorem keeps_endDrafts (p : Port) (s : State) : Keeps s (endDrafts p s) := by
  refine keeps_store ?_
  rw [Store.abandonDrafts_eq]
  exact Store.addsNoDraft_foldl (Store.addsNoDraft_abandonDraftAt p) _ _

/-- The Message Store's part of a session end leaves the port no draft (R61). -/
theorem endDrafts_clears (p : Port) (s : State) (i : RecordNo) :
    (endDrafts p s).store.records[i].content.isDraftOf p = false := by
  change (s.store.abandonDrafts p).records[i].content.isDraftOf p = false
  rw [Store.abandonDrafts_eq]
  exact foldl_clears (P := fun (i : RecordNo) (st : Store) => st.records[i].content.isDraftOf p = false)
    (Store.abandonDraftAt_clears p)
    (fun st x y hy => Store.addsNoDraft_abandonDraftAt p st x p y hy) _ _ (.inl (List.mem_finRange i))

theorem keeps_flush {s : State} {p : Port} (h : s.attached p) : Keeps s (flush p s) := by
  rw [flush_eq]
  have hdropped := Store.addsNoDraft_foldl
    (fun st (d : Delivery) => st.addsNoDraft_dropReference d.message.record) (s.inboxes.get p).records s.store
  exact (keeps_store hdropped).trans (keeps_putInbox _ h)

theorem keeps_endInbox {s : State} {p : Port} (h : s.attached p) : Keeps s (endInbox p s) := by
  have hflushed := keeps_flush h
  exact hflushed.trans (keeps_putInbox .reset ((hflushed.holdings.attached p).2 h))

theorem keeps_endReports {s : State} {p : Port} (h : s.attached p) : Keeps s (endReports p s) :=
  keeps_putReports _ h

/-- A port that has nothing left goes DETACHED (Table 9-2, step 8). -/
theorem sessionsSound_endPort {s : State} {p : Port} (hholdings : HoldingsSound s) (hroles : RolesSound s)
    (hnothing : HoldsNothing s p) (hwithout : s.authority.Without p)
    (hclaims : ∀ line, s.ownerOf line ≠ some p) : SessionsSound (endPort p s) := by
  have hother : ∀ q, q ≠ p → s.attached q → (endPort p s).attached q := fun q hq h => by
    change ((s.ports.put p _).get q).session = .attached
    rwa [PerPort.get_put_of_ne _ _ hq]
  obtain ⟨hcomplete, hdetached⟩ := hholdings
  obtain ⟨⟨hnodup, hvacant, hholder, hwaiters⟩, howners, hguarded⟩ := hroles
  obtain ⟨hnotholder, hnotwaiter⟩ := hwithout
  refine sessionsSound_iff.2 ⟨rfl, ⟨hcomplete, fun q hq hqd => ?_⟩, ⟨hnodup, hvacant, ?_, ?_⟩, ?_, hguarded⟩
  · by_cases hqp : q = p
    · exact hqp ▸ hnothing
    · exact hdetached q hq fun h => hqd (hother q hqp h)
  · exact fun h hh => ⟨hother _ (hnotholder h hh) (hholder h hh).1, (hholder h hh).2⟩
  · exact fun w hw => hother _ (hnotwaiter w hw) (hwaiters w hw)
  · exact fun line hline q hq => hother q (fun hqp => hclaims line (hqp ▸ hq)) (howners line hline q hq)

/-- The end of an attached port's session, through the parts of Table 9-2: each clears what its block holds
for the port, and none brings back what an earlier one cleared. -/
theorem sessionsSound_endSession {s : State} {p : Port} (hs : SessionsSound s) (hp : s.attached p) :
    SessionsSound (endSession p s) := by
  obtain ⟨-, hholdings, hroles⟩ := sessionsSound_iff.1 hs
  obtain ⟨hcomplete, -⟩ := id hholdings
  let s1 : State := { s with departing := some p }
  let s2 := endEntries p s1
  let s3 := endAuthority p s2
  let s4 := endDrafts p s3
  let s5 := endClaims p s4
  let s6 := endInbox p s5
  let s7 := endReports p s6
  have hentries : ∀ i : RecordNo, s2.calendar.records[i].content.endsWith p = false :=
    endEntries_clears p (s := s1) hcomplete
  have h12 : Keeps s1 s2 := keeps_endEntries p s1
  have hroles2 : RolesSound s2 := h12.roles.rolesSound hroles
  obtain ⟨h23, hroles3, hwithout⟩ := endAuthority_effect p hroles2
  have h34 : Keeps s3 s4 := keeps_endDrafts p s3
  have hdrafts : ∀ i : RecordNo, s4.store.records[i].content.isDraftOf p = false := endDrafts_clears p s3
  obtain ⟨h45, hroles5, hauthority⟩ := endClaims_effect p (h34.roles.rolesSound hroles3)
  have h25 : KeepsHoldings s2 s5 := (h23.trans h34.holdings).trans h45
  have hp5 : s5.attached p := ((h12.holdings.trans h25).attached p).2 hp
  have h56 : Keeps s5 s6 := keeps_endInbox hp5
  have h67 : Keeps s6 s7 := keeps_endReports ((h56.holdings.attached p).2 hp5)
  have h57 : Keeps s5 s7 := h56.trans h67
  have hnothing : HoldsNothing s7 p := by
    refine ⟨PerPort.get_put _ p _, ?_, ?_, fun i => (h25.trans h57.holdings).entries p i (hentries i)⟩
    · have hended : s7.reports.get p = (s6.reports.get p).ended := PerPort.get_put _ p _
      rw [hended]
      rfl
    · exact draftCount_eq_zero.2 fun i => (h45.trans h57.holdings).drafts p i (hdrafts i)
  have hholdings7 : HoldingsSound s7 :=
    (h25.trans h57.holdings).holdingsSound (h12.holdings.holdingsSound hholdings)
  have hauthority7 : s7.authority = s3.authority :=
    h57.roles.authority.trans (hauthority.trans h34.roles.authority)
  have hwithout7 : s7.authority.Without p := hauthority7 ▸ hwithout
  exact sessionsSound_endPort hholdings7 (h57.roles.rolesSound hroles5) hnothing hwithout7 fun line => by
    rw [h57.roles.owner]
    exact ownerOf_endClaims p s4 line

end Sys2Proof.Machine

/-! What each command and event does to sessions: it keeps what they promise. -/

namespace Sys2Proof.Machine

/-! ### Commands that bring no port anything -/

theorem keeps_loadTime (p : Port) (ps : List Byte) (s : State) : Keeps s (loadTime p ps s).state := by
  unfold loadTime
  dsimp only
  split
  · exact .refl s
  · rw [okay_state]
    exact (keeps_endSlew _ s).trans (keeps_changeTime _ _ _ _ _)

theorem keeps_stepTime (p : Port) (ps : List Byte) (s : State) : Keeps s (stepTime p ps s).state := by
  unfold stepTime
  split
  · exact .refl s
  · split
    · exact .refl s
    · rw [okay_state]
      exact keeps_changeTime _ _ _ _ s

theorem keeps_setRate (p : Port) (ps : List Byte) (s : State) : Keeps s (setRate p ps s).state := by
  unfold setRate
  split
  · exact keeps_time s _
  · exact .refl s

theorem keeps_startSlew (p : Port) (ps : List Byte) (s : State) : Keeps s (startSlew p ps s).state := by
  unfold startSlew
  dsimp only
  split
  · exact .refl s
  · split
    · exact .refl s
    · exact (keeps_endSlew _ s).trans (keeps_time _ _)

theorem keeps_stopSlew (p : Port) (ps : List Byte) (s : State) : Keeps s (stopSlew p ps s).state := by
  unfold stopSlew
  split
  · exact .refl s
  · exact keeps_time s _

/-- A handle that passes the checks of a draft names a DRAFT of the port. -/
theorem Store.content_of_ownDraft {st : Store} {p : Port} {h : Handle} {m : Message}
    (hm : st.ownDraft p h = .ok m) : st.records[h.record].content = .draft m := by
  unfold Store.ownDraft at hm
  split at hm
  · cases hm
  · split at hm
    · cases hm
    · split at hm
      · rename_i hdraft
        cases hm
        exact hdraft
      · cases hm

theorem keeps_append (p : Port) (ps : List Byte) (s : State) : Keeps s (append p ps s).state := by
  unfold append
  dsimp only
  split
  · exact .refl s
  · split
    · exact .refl s
    · split
      · exact .refl s
      · split
        · exact .refl s
        · rename_i hm
          split
          · exact .refl s
          · exact keeps_store (Store.addsNoDraft_append _ (Store.content_of_ownDraft hm))

theorem keeps_abandonDraft (p : Port) (ps : List Byte) (s : State) : Keeps s (abandonDraft p ps s).state := by
  unfold abandonDraft
  split
  · exact .refl s
  · split
    · exact .refl s
    · exact keeps_store (s.store.addsNoDraft_release _ _)

theorem keeps_setQuota (p : Port) (ps : List Byte) (s : State) : Keeps s (setQuota p ps s).state := by
  unfold setQuota
  dsimp only
  split
  · exact .refl s
  · split
    · exact .refl s
    · split
      · exact .refl s
      · rw [okay_state]
        refine .trans (keeps_store ?_) (keeps_reportNow _ _ _)
        exact Store.addsNoDraft_of_records rfl

/-- RETIME and CANCEL act on an entry that stands ARMED. -/
theorem keeps_onArmed {p : Port} {h : Handle} {s : State} {body : Entry → Reply}
    (hbody : ∀ e, s.calendar.records[h.record].content = .armed e → Keeps s (body e).state) :
    Keeps s (onArmed p h s body).state := by
  unfold onArmed
  split
  · exact .refl s
  · rename_i e hnamed
    obtain ⟨-, hcontent⟩ := Calendar.named_eq_some.1 hnamed
    split
    · exact .refl s
    · split
      · exact .refl s
      · rename_i hnot
        rcases hcontent with harmed | ⟨why, hfinished⟩
        · exact hbody e harmed
        · exact absurd hfinished (hnot e why)

theorem keeps_retime (p : Port) (ps : List Byte) (s : State) : Keeps s (retime p ps s).state := by
  unfold retime
  dsimp only
  split
  · exact .refl s
  · split
    · exact .refl s
    · split
      · exact .refl s
      · refine keeps_onArmed fun e he => ?_
        split
        · exact .refl s
        · exact (keeps_arm _ he rfl rfl).trans (keeps_releaseIfDue _ _ _ _)

theorem keeps_cancel (p : Port) (ps : List Byte) (s : State) : Keeps s (cancel p ps s).state := by
  unfold cancel
  split
  · exact .refl s
  · exact keeps_onArmed fun e he => keeps_finishEntry e .cancelled he

theorem keeps_queryEntry (p : Port) (ps : List Byte) (s : State) : Keeps s (queryEntry p ps s).state := by
  unfold queryEntry
  split
  · exact .refl s
  · split <;> exact .refl s

theorem keeps_fetchHead (p : Port) (ps : List Byte) (s : State) : Keeps s (fetchHead p ps s).state := by
  unfold fetchHead
  split <;> exact .refl s

theorem keeps_readPayload (p : Port) (ps : List Byte) (s : State) : Keeps s (readPayload p ps s).state := by
  unfold readPayload
  dsimp only
  split
  · exact .refl s
  · split
    · exact .refl s
    · split
      · exact .refl s
      · split <;> exact .refl s

theorem keeps_takeCapture (p : Port) (ps : List Byte) (s : State) : Keeps s (takeCapture p ps s).state := by
  unfold takeCapture
  split
  · exact .refl s
  · dsimp only
    split
    · exact .refl s
    · split
      · exact .refl s
      · exact keeps_putLine rfl

theorem keeps_disarmAlign (p : Port) (ps : List Byte) (s : State) : Keeps s (disarmAlign p ps s).state := by
  unfold disarmAlign
  split
  · exact .refl s
  · exact keeps_disarmed s

theorem keeps_driveLine (p : Port) (ps : List Byte) (s : State) : Keeps s (driveLine p ps s).state := by
  unfold driveLine
  split
  · exact .refl s
  · split
    · exact .refl s
    · split
      · exact .refl s
      · split
        · exact .refl s
        · exact keeps_putOut s _ _

/-! ### Commands on the port's own inbox and reports -/

theorem keeps_discardHead {p : Port} (ps : List Byte) {s : State} (hp : s.attached p) :
    Keeps s (discardHead p ps s).state := by
  unfold discardHead
  split
  · exact .refl s
  · unfold removeHead
    rw [okay_state]
    split
    · exact .refl s
    · exact (keeps_putInbox _ hp).trans (keeps_dropReference _ _)

theorem keeps_setInbox {p : Port} (ps : List Byte) {s : State} (hp : s.attached p) :
    Keeps s (setInbox p ps s).state := by
  unfold setInbox
  dsimp only
  split
  · exact keeps_putInbox _ hp
  · exact .refl s

theorem keeps_takeReport {p : Port} (ps : List Byte) {s : State} (hp : s.attached p) :
    Keeps s (takeReport p ps s).state := by
  unfold takeReport
  split
  · exact .refl s
  · exact keeps_putReports _ hp

theorem keeps_setReportMask {p : Port} (ps : List Byte) {s : State} (hp : s.attached p) :
    Keeps s (setReportMask p ps s).state := by
  unfold setReportMask
  dsimp only
  split
  · exact .refl s
  · exact keeps_putReports _ hp

/-! ### Commands that give a port a role -/

theorem position_eq_zero_iff {a : Authority} {p : Port} :
    a.position p = 0 ↔ ∀ w ∈ a.waiters, w.port ≠ p := by
  refine ⟨fun h => ?_, position_eq_zero⟩
  unfold Authority.position at h
  split at h
  · cases h
  · rename_i hnone
    exact fun w hw => by simpa using List.findIdx?_eq_none_iff.1 hnone w hw

theorem sessionsSound_grant {s : State} {p : Port} (lease : Nat) (hs : SessionsSound s) (hp : s.attached p)
    (h : s.authority.holder = none ∨ s.isHolder p) : SessionsSound (grant p lease s) :=
  (keepsHoldings_authority s _).sessionsSound (fun hr => rolesSound_grant lease hr hp h) hs

theorem sessionsSound_claimAuthority {p : Port} (ps : List Byte) {s : State} (hs : SessionsSound s)
    (hp : s.attached p) : SessionsSound (claimAuthority p ps s).state := by
  by_cases hlease : leaseInRange (field ps 0 2)
  · cases hh : s.authority.holder with
    | none =>
      rw [claimAuthority_vacant hlease hh]
      exact sessionsSound_grant _ hs hp (.inl hh)
    | some h =>
      by_cases hport : h.port = p
      · rw [claimAuthority_holder hlease hh hport]
        exact sessionsSound_grant _ hs hp (.inr (Option.map_eq_some_iff.2 ⟨h, hh, hport⟩))
      · by_cases hpos : s.authority.position p = 0
        · rw [claimAuthority_joins hlease hh hport hpos]
          exact (keepsHoldings_authority s _).sessionsSound
            (fun hr => rolesSound_join _ hr hp hh hport (position_eq_zero_iff.1 hpos)) hs
        · rw [claimAuthority_waiter hlease hh hport hpos]
          exact hs
  · rw [claimAuthority_outOfRange hlease]
    exact hs

theorem sessionsSound_asHolder {p : Port} {s : State} {body : Holder → Reply} (hs : SessionsSound s)
    (h : ∀ x, s.authority.holder = some x → x.port = p → SessionsSound (body x).state) :
    SessionsSound (asHolder p s body).state := by
  unfold asHolder
  split
  · rename_i x hx
    split
    · rename_i hp
      exact h x hx hp
    · exact hs
  · exact hs

theorem sessionsSound_renewAuthority {p : Port} (ps : List Byte) {s : State} (hs : SessionsSound s)
    (hp : s.attached p) : SessionsSound (renewAuthority p ps s).state :=
  sessionsSound_asHolder hs fun x hx hport =>
    sessionsSound_grant _ hs hp (.inr (Option.map_eq_some_iff.2 ⟨x, hx, hport⟩))

theorem sessionsSound_releaseAuthority (p : Port) (ps : List Byte) {s : State} (hs : SessionsSound s) :
    SessionsSound (releaseAuthority p ps s).state :=
  sessionsSound_asHolder hs fun h _ _ =>
    (keepsHoldings_loseAuthority h .released s).sessionsSound (rolesSound_loseAuthority h .released) hs

theorem sessionsSound_withdrawClaim (p : Port) (ps : List Byte) {s : State} (hs : SessionsSound s) :
    SessionsSound (withdrawClaim p ps s).state := by
  unfold withdrawClaim
  split
  · exact hs
  · exact (keepsHoldings_authority s _).sessionsSound (rolesSound_dropWaiter p) hs

/-- The Calendar is held by the holder of the authority (R81). -/
theorem sessionsSound_holdReleases {p : Port} (ps : List Byte) {s : State} (hs : SessionsSound s)
    (hp : s.isHolder p) : SessionsSound (holdReleases p ps s).state := by
  obtain ⟨hdeparting, ⟨hcomplete, hnothing⟩, hauthority, hclaims, harming, -⟩ := sessionsSound_iff.1 hs
  refine sessionsSound_iff.2
    ⟨hdeparting, ⟨hcomplete, hnothing⟩, hauthority, hclaims, harming, fun _ hnone => ?_⟩
  have hnone : s.authority.holder = none := hnone
  rw [State.isHolder, hnone] at hp
  cases hp

/-- A line that nobody owns given to an attached port (R111). -/
theorem sessionsSound_claim {p : Port} {line : Line} {s : State} {granted : Reply} (hs : SessionsSound s)
    (h : s.ownerOf line = none → SessionsSound granted.state) :
    SessionsSound (claim p line s granted).state := by
  unfold claim
  split
  · rename_i hnone
    exact h hnone
  · split <;> exact hs

theorem sessionsSound_claimLine {p : Port} (ps : List Byte) {s : State} (hs : SessionsSound s)
    (hp : s.attached p) : SessionsSound (claimLine p ps s).state := by
  unfold claimLine
  dsimp only
  split
  · exact hs
  · rename_i l _
    split
    · exact hs
    · refine sessionsSound_claim hs fun hnone => ?_
      refine (keepsHoldings_events s _).sessionsSound (fun hr => ?_) hs
      refine rolesSound_of_owner (line := .event l) hr (fun k hk => ?_) (fun q hq => ?_)
        (hr.arming_ne hnone) rfl rfl rfl rfl
      · exact (ownerOf_putLine s l _ k).trans (if_neg hk)
      · have hq := ((ownerOf_putLine s l _ _).trans (if_pos rfl)).symm.trans hq
        exact Option.some.inj hq ▸ hp
  · rename_i o _
    split
    · exact hs
    · rename_i level _
      refine sessionsSound_claim hs fun hnone => ?_
      have hholdings : KeepsHoldings s ((s.putOutOwner o (some p)).putOut o (.claimed level)) :=
        (keepsHoldings_events s _).trans (keeps_putOut _ o _).holdings
      refine hholdings.sessionsSound (fun hr => ?_) hs
      refine rolesSound_of_owner (line := .output o) hr (fun k hk => ?_) (fun q hq => ?_)
        (hr.arming_ne hnone) rfl rfl rfl rfl
      · exact (ownerOf_putOutOwner s o _ k).trans (if_neg hk)
      · have hq := ((ownerOf_putOutOwner s o _ _).trans (if_pos rfl)).symm.trans hq
        exact Option.some.inj hq ▸ hp

theorem sessionsSound_releaseLine (p : Port) (ps : List Byte) {s : State} (hs : SessionsSound s) :
    SessionsSound (releaseLine p ps s).state := by
  unfold releaseLine
  split
  · exact hs
  · split
    · exact hs
    · exact (keepsHoldings_releaseOf _ s).sessionsSound (rolesSound_releaseOf _) hs

/-- An align is armed by the holder of the authority on a line that it owns (R121, R122). -/
theorem sessionsSound_armAlign {p : Port} (ps : List Byte) {s : State} (hs : SessionsSound s)
    (hp : s.isHolder p) : SessionsSound (armAlign p ps s).state := by
  unfold armAlign
  dsimp only
  split
  · split
    · exact hs
    · rename_i hchecks
      have hrows := firstFailing_eq_none.1 hchecks
      simp only [List.mem_cons, List.not_mem_nil, or_false, forall_eq_or_imp, forall_eq] at hrows
      obtain ⟨-, -, howner, -⟩ := hrows
      refine (keepsHoldings_events s _).sessionsSound (fun hr => ?_) hs
      obtain ⟨hauthority, hclaims, -, hheld⟩ := hr
      refine ⟨hauthority, fun k hk q hq => hclaims k hk q ?_, fun a ha => ?_, hheld⟩
      · cases k <;> exact hq
      · obtain rfl : _ = a := Option.some.inj ha
        exact ⟨hp, not_not.1 (of_decide_eq_false howner)⟩
  · exact hs

/-! ### Commands that give a port a draft, an entry or a session -/

theorem sessionsSound_openDraft {p : Port} (ps : List Byte) {s : State} (hs : SessionsSound s)
    (hp : s.attached p) : SessionsSound (openDraft p ps s).state := by
  unfold openDraft
  split
  · exact hs
  · split
    · exact hs
    · rename_i i rest _
      obtain ⟨hdeparting, ⟨hcomplete, hnothing⟩, hroles⟩ := sessionsSound_iff.1 hs
      refine sessionsSound_iff.2 ⟨hdeparting, ⟨hcomplete, fun q hq hdetached => ?_⟩,
        (keepsRoles_of_eq (fun _ => rfl) rfl rfl rfl).rolesSound hroles⟩
      obtain ⟨hinbox, hreports, hdrafts, hentries⟩ := hnothing q hq hdetached
      refine ⟨hinbox, hreports, draftCount_eq_zero.2 fun j => ?_, hentries⟩
      change ((s.store.putRecord i _).records[j]).content.isDraftOf q = false
      rw [Store.putRecord_get]
      split
      · exact decide_eq_false fun hpq => hdetached (hpq ▸ hp)
      · exact draftCount_eq_zero.1 hdrafts j

theorem Calendar.take_content (c : Calendar) (i j : RecordNo) (rest : List RecordNo) (e : Entry) (r : Point) :
    (c.take i rest e r).records[j].content =
      if j = i then .armed { e with release := r, sequence := c.nextSequence } else c.records[j].content := by
  unfold Calendar.take
  rw [Calendar.arm_content]
  split
  · rfl
  · rename_i hji
    change ((c.putRecord i _).records[j]).content = _
    rw [Calendar.putRecord_get, if_neg hji]

/-- An entry admitted for an attached port (R71). -/
theorem sessionsSound_take {s : State} {i : RecordNo} {rest : List RecordNo} {e : Entry} (r : Point)
    (hs : SessionsSound s) (hp : s.attached e.owner) (hfree : s.calendar.freeRecords = i :: rest) :
    SessionsSound { s with calendar := s.calendar.take i rest e r } := by
  obtain ⟨hdeparting, ⟨hcomplete, hnothing⟩, hroles⟩ := sessionsSound_iff.1 hs
  refine sessionsSound_iff.2
    ⟨hdeparting, ⟨Calendar.complete_take hcomplete hfree e r, fun q hq hdetached => ?_⟩,
      (keepsRoles_of_eq (fun _ => rfl) rfl rfl rfl).rolesSound hroles⟩
  obtain ⟨hinbox, hreports, hdrafts, hentries⟩ := hnothing q hq hdetached
  refine ⟨hinbox, hreports, hdrafts, fun j => ?_⟩
  rw [Calendar.take_content]
  split
  · have howner : e.owner ≠ q := fun hpq => hdetached (hpq ▸ hp)
    simp [EntryState.endsWith, howner]
  · exact hentries j

theorem keeps_takeEntryReference (a : EntryAction) (s : State) : Keeps s (takeEntryReference a s) := by
  cases a with
  | deliver ts h => exact keeps_takeReference _ s
  | line o act => exact .refl s

theorem sessionsSound_schedule {p : Port} {ps : List Byte} (r : Point) (late : Bool) {s : State}
    (hs : SessionsSound s) (hp : s.attached p) : SessionsSound (schedule p ps r late s).state := by
  unfold schedule
  split
  · rename_i i rest action hfree _
    have htaken := sessionsSound_take (e := scheduledEntry p ps action) r hs hp hfree
    exact ((keeps_takeEntryReference _ _).trans (keeps_releaseIfDue late i r _)).sessionsSound htaken
  · exact hs

theorem sessionsSound_scheduleAt {p : Port} (ps : List Byte) {s : State} (hs : SessionsSound s)
    (hp : s.attached p) : SessionsSound (scheduleAt p ps s).state := by
  unfold scheduleAt
  dsimp only
  split
  · exact hs
  · split
    · exact hs
    · split
      · exact hs
      · split
        · exact hs
        · exact sessionsSound_schedule _ _ hs hp

theorem sessionsSound_scheduleAfter {p : Port} (ps : List Byte) {s : State} (hs : SessionsSound s)
    (hp : s.attached p) : SessionsSound (scheduleAfter p ps s).state := by
  unfold scheduleAfter
  dsimp only
  split
  · exact hs
  · split
    · exact hs
    · split
      · exact hs
      · exact sessionsSound_schedule _ _ hs hp

theorem attached_putPort {s : State} {p q : Port} {x : HostPort} (hx : x.session = .attached)
    (h : s.attached q) : (s.putPort p x).attached q := by
  rw [State.attached, State.putPort_ports, PerPort.get_put_eq]
  split
  · exact hx
  · exact h

theorem sessionsSound_attach (p : Port) (ps : List Byte) {s : State} (hs : SessionsSound s) :
    SessionsSound (attach p ps s).state := by
  unfold attach
  dsimp only
  split
  · exact hs
  · rw [okay_state]
    obtain ⟨hdeparting, ⟨hcomplete, hnothing⟩, hroles⟩ := sessionsSound_iff.1 hs
    refine sessionsSound_iff.2 ⟨hdeparting,
      ⟨hcomplete, fun q hq hdetached => hnothing q hq fun h => hdetached (attached_putPort rfl h)⟩, ?_⟩
    exact KeepsRoles.rolesSound (s := s)
      ⟨rfl, fun line => by cases line <;> rfl, fun _ => id, id, fun q => attached_putPort rfl⟩ hroles

/-! ### Events -/

theorem keeps_stepEdge (a : Arming) (compensation : Nat) (t : Stamp) (stored : Bool) (s : State) :
    Keeps s (stepEdge a compensation t stored s) := by
  unfold stepEdge
  dsimp only
  split
  · exact (keeps_disarmed s).trans (keeps_reportNow _ _ _)
  · exact ((keeps_disarmed s).trans (keeps_changeTime _ _ _ _ _)).trans (keeps_reportNow _ _ _)

theorem keeps_alignEdge (l : EvLine) (compensation : Nat) (t : Stamp) (pol : Polarity) (stored : Bool)
    (s : State) : Keeps s (alignEdge l compensation t pol stored s) := by
  unfold alignEdge
  split
  · exact .refl s
  · split
    · split
      · exact keeps_stepEdge _ _ _ _ s
      · exact keeps_report _ _ _ s
    · exact .refl s

theorem EventLine.record_owner (x : EventLine) (stamp : Stamp) (pol : Polarity) :
    (x.record stamp pol).owner = x.owner := by
  unfold EventLine.record
  split <;> rfl

theorem keeps_capture (l : EvLine) (owner : Port) (stamp : Stamp) (pol : Polarity) (s : State) :
    Keeps s (capture l owner stamp pol s) := by
  have hrecord : Keeps s (s.putLine l ((s.events.lines.get l).record stamp pol)) :=
    keeps_putLine (EventLine.record_owner _ stamp pol)
  unfold capture
  dsimp only
  split
  · exact hrecord.trans (keeps_report _ _ _ _)
  · exact hrecord

theorem keeps_recognizedEdge (l : EvLine) (level : Level) (s : State) :
    Keeps s (recognizedEdge l level s) := by
  have hlevel : Keeps s (s.putLine l { s.events.lines.get l with level := level }) := keeps_putLine rfl
  unfold recognizedEdge
  dsimp only
  split
  · exact hlevel
  · split
    · exact (hlevel.trans (keeps_capture _ _ _ _ _)).trans (keeps_alignEdge _ _ _ _ _ _)
    · exact hlevel

theorem sessionsSound_takeDueEnds {s : State} (hs : SessionsSound s) : SessionsSound (takeDueEnds s) := by
  have hdrawn : Keeps s { s with draws := s.draws + 1 } :=
    keeps_other s s.time s.outputs (s.draws + 1) s.pending
  unfold takeDueEnds
  split
  · have hbefore := (hdrawn.trans
      (keeps_takeEnds (endNumbers.filter fun k => Config.endBeforeLease s.draws k) _)).sessionsSound hs
    exact (keeps_takeEnds _ _).sessionsSound (sessionsSound_leaseExpiry hbefore)
  · exact (keeps_takeEnds _ _).sessionsSound hs

theorem sessionsSound_refclkAdvance {s t : State} (hs : SessionsSound s)
    (h : execRefclkAdvance s = .next t) : SessionsSound t := by
  unfold execRefclkAdvance at h
  split at h
  · exact Host.Outcome.next.inj h ▸ hs
  · exact Host.Outcome.next.inj h ▸ (keeps_advance _).sessionsSound
      (sessionsSound_takeDueEnds ((keeps_settleTick s).sessionsSound hs))

theorem sessionsSound_putPort {s : State} {p : Port} {x : HostPort} (hs : SessionsSound s)
    (h : x.session = (s.ports.get p).session) : SessionsSound (s.putPort p x) :=
  (keeps_putPort h).sessionsSound hs

theorem sessionsSound_commandWrite {p : Port} {x : Transaction} {s t : State} (hs : SessionsSound s)
    (h : execCommandWrite p x s = .next t) : SessionsSound t := by
  unfold execCommandWrite at h
  split at h
  · split at h <;> exact Host.Outcome.next.inj h ▸ sessionsSound_putPort hs rfl
  · exact Host.Outcome.next.inj h ▸ sessionsSound_putPort hs rfl

theorem sessionsSound_responseRead {p : Port} {x : Transaction} {s t : State} (hs : SessionsSound s)
    (h : execResponseRead p x s = .next t) : SessionsSound t := by
  unfold execResponseRead at h
  split at h
  · split at h <;> exact Host.Outcome.next.inj h ▸ sessionsSound_putPort hs rfl
  · exact Host.Outcome.next.inj h ▸ sessionsSound_putPort hs rfl

theorem keeps_complete (p : Port) (tag : Byte) (d o : Bool) (r : Reply) :
    Keeps r.state (complete p tag d o r) := keeps_putPort rfl

theorem sessionsSound_unknownCommand {p : Port} {s t : State} (hs : SessionsSound s)
    (h : execUnknownCommand p s = .next t) : SessionsSound t := by
  unfold execUnknownCommand at h
  split at h
  · split at h
    · exact Host.Outcome.next.inj h ▸ hs
    · exact Host.Outcome.next.inj h ▸ sessionsSound_putPort ((keeps_settleTick s).sessionsSound hs) rfl
  · exact Host.Outcome.next.inj h ▸ hs

theorem sessionsSound_edgeRecognized {l : EvLine} {level : Level} {held : Nat} {s t : State}
    (hs : SessionsSound s) (h : execEdgeRecognized l level held s = .next t) : SessionsSound t := by
  unfold execEdgeRecognized at h
  split at h
  · exact Host.Outcome.next.inj h ▸
      ((keeps_settleTick s).trans (keeps_recognizedEdge l level _)).sessionsSound hs
  · exact Host.Outcome.next.inj h ▸ hs

theorem sessionsSound_portReset {p : Port} {s t : State} (hs : SessionsSound s)
    (h : execPortReset p s = .next t) : SessionsSound t := by
  have hreset : Keeps s (assertPortReset p s.settleTick) := (keeps_settleTick s).trans (keeps_putPort rfl)
  unfold execPortReset at h
  dsimp only at h
  split at h
  · rename_i hp
    exact Host.Outcome.next.inj h ▸
      sessionsSound_endSession (hreset.sessionsSound hs) ((hreset.holdings.attached p).2 hp)
  · exact Host.Outcome.next.inj h ▸ hreset.sessionsSound hs

theorem sessionsSound_resetNegation {pins : PerEv Level} {s t : State} (hs : SessionsSound s)
    (h : execResetNegation pins s = .next t) : SessionsSound t := by
  unfold execResetNegation at h
  split at h
  · have hnegated : Keeps s { s with resetAsserted := false } :=
      ⟨keepsHoldings_of_eq (fun _ => rfl) rfl rfl rfl rfl rfl, keepsRoles_of_eq (fun _ => rfl) rfl rfl rfl⟩
    rw [← Host.Outcome.next.inj h]
    refine Keeps.sessionsSound (hnegated.trans (keeps_events (fun l => ?_) rfl fun _ => id)) hs
    cases l <;> rfl
  · exact Host.Outcome.next.inj h ▸ hs

theorem sessionsSound_deviceReset (s : State) : SessionsSound (deviceReset s) := by
  have hcontent : ∀ i : RecordNo, Calendar.reset.records[i].content = .free := fun i => by
    simp [Calendar.reset]
  have hmessage : ∀ i : RecordNo, Store.reset.records[i].content = .free := fun i => by
    simp [Store.reset]
  refine ⟨rfl, ⟨List.nodup_nil, List.nodup_finRange 128, fun i => ?_⟩, ⟨List.nodup_nil, fun _ => rfl, nofun,
    nofun⟩, fun line _ p hp => ?_, ⟨nofun, nofun⟩, fun p _ _ => ⟨?_, ?_, ?_, fun i => ?_⟩⟩
  · change (i ∈ [] ↔ Calendar.reset.records[i].content.isArmed = true) ∧
      (i ∈ List.finRange 128 ↔ Calendar.reset.records[i].content.isArmed = false)
    rw [hcontent]
    simp [EntryState.isArmed, List.mem_finRange]
  · cases line with
    | event l => cases l <;> cases hp
    | output o => cases o <;> cases hp
  · cases p <;> rfl
  · cases p <;> rfl
  · refine draftCount_eq_zero.2 fun i => ?_
    change Store.reset.records[i].content.isDraftOf p = false
    rw [hmessage]
    rfl
  · change Calendar.reset.records[i].content.endsWith p = false
    rw [hcontent]
    rfl

/-! ### The step -/

/-- A command is refused, or carried out for a port that passed the checks of session and authority. -/
theorem gate_cases (row : CommandRow) (p : Port) (ps : List Byte) (f : State → Reply) (s : State) :
    (∃ r, gate row p ps f s = refuse s r) ∨
      (gate row p ps f s = f s ∧ (row.anySession = false → s.attached p) ∧
        (row.needsAuthority = true → s.isHolder p)) := by
  unfold gate
  split
  · exact .inl ⟨_, rfl⟩
  · rename_i hsession
    split
    · exact .inl ⟨_, rfl⟩
    · rename_i hholder
      split
      · exact .inl ⟨_, rfl⟩
      · exact .inr ⟨rfl, fun hr => not_not.1 fun hp => hsession ⟨hr, hp⟩,
          fun hr => not_not.1 fun hp => hholder ⟨hr, hp⟩⟩

theorem execution_sessionsSound {row : CommandRow} {body : Port → List Byte → State → Reply} {p : Port}
    {s t : State} (hs : SessionsSound s) (h : execution row body p s = .next t)
    (hbody : ∀ ps u, SessionsSound u → (row.anySession = false → u.attached p) →
      (row.needsAuthority = true → u.isHolder p) → SessionsSound (body p ps u).state) : SessionsSound t := by
  rcases execution_cases h with ⟨c, d, o, -, -, rfl⟩ | ⟨-, rfl⟩
  · refine (keeps_complete _ _ _ _ _).sessionsSound ?_
    have hsettled := (keeps_settleTick s).sessionsSound hs
    rcases gate_cases row p c.params (body p c.params) s.settleTick with ⟨r, hr⟩ | ⟨hf, hsession, hholder⟩
    · rw [hr]
      exact hsettled
    · rw [hf]
      exact hbody c.params _ hsettled hsession hholder
  · exact hs

/-- The same for a rule that keeps holdings and roles whatever port it is for. -/
theorem execution_keeps {row : CommandRow} {body : Port → List Byte → State → Reply} {p : Port} {s t : State}
    (hs : SessionsSound s) (h : execution row body p s = .next t)
    (hbody : ∀ ps u, Keeps u (body p ps u).state) : SessionsSound t :=
  execution_sessionsSound hs h fun ps u hu _ _ => (hbody ps u).sessionsSound hu

theorem exec_sessionsSound {i : Instr} {s t : State} (hs : SessionsSound s) (h : exec i s = .next t) :
    SessionsSound t := by
  have settled := (keeps_settleTick s).sessionsSound hs
  cases i with
  | commandWrite p x => exact sessionsSound_commandWrite hs h
  | responseRead p x => exact sessionsSound_responseRead hs h
  | unknownCommand p => exact sessionsSound_unknownCommand hs h
  | readTime p => exact execution_keeps hs h fun _ u => .refl u
  | loadTime p => exact execution_keeps hs h (keeps_loadTime p)
  | stepTime p => exact execution_keeps hs h (keeps_stepTime p)
  | setRate p => exact execution_keeps hs h (keeps_setRate p)
  | startSlew p => exact execution_keeps hs h (keeps_startSlew p)
  | stopSlew p => exact execution_keeps hs h (keeps_stopSlew p)
  | refclkAdvance => exact sessionsSound_refclkAdvance hs h
  | elapsedTick => exact Host.Outcome.next.inj h ▸ settled
  | slewEnd => exact Host.Outcome.next.inj h ▸ (keeps_slewEnd _).sessionsSound settled
  | claimAuthority p =>
    exact execution_sessionsSound hs h fun ps _ hu hp _ => sessionsSound_claimAuthority ps hu (hp rfl)
  | renewAuthority p =>
    exact execution_sessionsSound hs h fun ps _ hu hp _ => sessionsSound_renewAuthority ps hu (hp rfl)
  | releaseAuthority p =>
    exact execution_sessionsSound hs h fun ps _ hu _ _ => sessionsSound_releaseAuthority p ps hu
  | withdrawClaim p => exact execution_sessionsSound hs h fun ps _ hu _ _ => sessionsSound_withdrawClaim p ps hu
  | leaseExpiry => exact Host.Outcome.next.inj h ▸ sessionsSound_leaseExpiry settled
  | openDraft p => exact execution_sessionsSound hs h fun ps _ hu hp _ => sessionsSound_openDraft ps hu (hp rfl)
  | append p => exact execution_keeps hs h (keeps_append p)
  | abandonDraft p => exact execution_keeps hs h (keeps_abandonDraft p)
  | setQuota p => exact execution_keeps hs h (keeps_setQuota p)
  | scheduleAt p => exact execution_sessionsSound hs h fun ps _ hu hp _ => sessionsSound_scheduleAt ps hu (hp rfl)
  | scheduleAfter p =>
    exact execution_sessionsSound hs h fun ps _ hu hp _ => sessionsSound_scheduleAfter ps hu (hp rfl)
  | retime p => exact execution_keeps hs h (keeps_retime p)
  | cancel p => exact execution_keeps hs h (keeps_cancel p)
  | queryEntry p => exact execution_keeps hs h (keeps_queryEntry p)
  | holdReleases p =>
    exact execution_sessionsSound hs h fun ps _ hu _ hh => sessionsSound_holdReleases ps hu (hh rfl)
  | resumeReleases p => exact execution_keeps hs h fun _ u => keeps_resume u
  | fetchHead p => exact execution_keeps hs h (keeps_fetchHead p)
  | readPayload p => exact execution_keeps hs h (keeps_readPayload p)
  | discardHead p =>
    exact execution_sessionsSound hs h fun ps _ hu hp _ => (keeps_discardHead ps (hp rfl)).sessionsSound hu
  | flushInbox p =>
    exact execution_sessionsSound hs h fun _ _ hu hp _ => (keeps_flush (hp rfl)).sessionsSound hu
  | setInbox p =>
    exact execution_sessionsSound hs h fun ps _ hu hp _ => (keeps_setInbox ps (hp rfl)).sessionsSound hu
  | claimLine p => exact execution_sessionsSound hs h fun ps _ hu hp _ => sessionsSound_claimLine ps hu (hp rfl)
  | releaseLine p => exact execution_sessionsSound hs h fun ps _ hu _ _ => sessionsSound_releaseLine p ps hu
  | queryLines p => exact execution_keeps hs h fun _ u => .refl u
  | takeCapture p => exact execution_keeps hs h (keeps_takeCapture p)
  | armAlign p => exact execution_sessionsSound hs h fun ps _ hu _ hh => sessionsSound_armAlign ps hu (hh rfl)
  | disarmAlign p => exact execution_keeps hs h (keeps_disarmAlign p)
  | edgeRecognized l level held => exact sessionsSound_edgeRecognized hs h
  | driveLine p => exact execution_keeps hs h (keeps_driveLine p)
  | pulseEnd o => exact Host.Outcome.next.inj h ▸ (keeps_pulseEnd o _).sessionsSound settled
  | takeReport p =>
    exact execution_sessionsSound hs h fun ps _ hu hp _ => (keeps_takeReport ps (hp rfl)).sessionsSound hu
  | setReportMask p =>
    exact execution_sessionsSound hs h fun ps _ hu hp _ => (keeps_setReportMask ps (hp rfl)).sessionsSound hu
  | attach p => exact execution_sessionsSound hs h fun ps _ hu _ _ => sessionsSound_attach p ps hu
  | detach p => exact execution_sessionsSound hs h fun _ _ hu hp _ => sessionsSound_endSession hu (hp rfl)
  | status p => exact execution_keeps hs h fun _ u => .refl u
  | portReset p => exact sessionsSound_portReset hs h
  | deviceReset => exact Host.Outcome.next.inj h ▸ sessionsSound_deviceReset s
  | resetNegation pins => exact sessionsSound_resetNegation hs h
  | portResetNegation p => exact Host.Outcome.next.inj h ▸ sessionsSound_putPort hs rfl

/-- Settles O55: every operation but a few keeps what ports hold and their roles (`Keeps`); the loss of the
authority, the claims of lines and the end of a session restore what they break, and a command gives
something only to a port that passed the check of its session. -/
theorem sessionsStaySound : Obligations.SessionsStaySound := by
  intro s t hs h
  unfold step at h
  split at h
  · exact Host.Outcome.next.inj h ▸ hs
  · rename_i i rest _
    exact exec_sessionsSound ((keeps_other s s.time s.outputs s.draws rest).sessionsSound hs) h

end Sys2Proof.Machine

/-! The Message Store's promises under each of its operations: one message record is replaced by another, and
the blocks, charges, drafts and free records follow it (R39, R40, R42, R44, R56). -/

namespace Sys2Proof.Machine

/-! ### One of many replaced -/

theorem toList_perm {α : Type} {n : Nat} (v : Vector α n) (i : Fin n) :
    v.toList.Perm (v[i] :: v.toList.eraseIdx i.val) := by
  have hi : i.val < v.toList.length := by simp
  have h := List.getElem_cons_eraseIdx_perm hi
  rw [Vector.getElem_toList] at h
  exact h.symm

theorem toList_set_perm {α : Type} {n : Nat} (v : Vector α n) (i : Fin n) (x : α) :
    (v.set i x).toList.Perm (x :: v.toList.eraseIdx i.val) := by
  have h := toList_perm (v.set i x) i
  have herase : (v.set i x).toList.eraseIdx i.val = v.toList.eraseIdx i.val := by
    rw [Vector.toList_set, List.eraseIdx_set_eq]
  have hget : (v.set i x)[i] = x := Vector.getElem_set_self _
  rwa [herase, hget] at h

theorem sum_map_set {α : Type} {n : Nat} (v : Vector α n) (i : Fin n) (x : α) (f : α → Nat) :
    ((v.set i x).toList.map f).sum + f v[i] = (v.toList.map f).sum + f x := by
  rw [((toList_set_perm v i x).map f).sum_eq, ((toList_perm v i).map f).sum_eq, List.map_cons, List.map_cons,
    List.sum_cons, List.sum_cons]
  omega

theorem countP_set {α : Type} {n : Nat} (v : Vector α n) (i : Fin n) (x : α) (q : α → Bool) :
    (v.set i x).toList.countP q + (if q v[i] then 1 else 0) =
      v.toList.countP q + (if q x then 1 else 0) := by
  rw [(toList_set_perm v i x).countP_eq, (toList_perm v i).countP_eq, List.countP_cons, List.countP_cons]
  omega

/-! ### A message record replaced -/

/-- The blocks of a port that a record holds, the share of the record in `Store.blocksOf`. -/
def MessageState.blocksOf (p : Port) (c : MessageState) : Nat :=
  match c.message? with
  | some m => if m.sender = p then m.chain.length else 0
  | none => 0

theorem Store.blocksOf_eq (st : Store) (p : Port) :
    st.blocksOf p = (st.records.toList.map fun r => r.content.blocksOf p).sum := rfl

theorem MessageState.blocksOf_of_message {c : MessageState} {m : Message} (h : c.message? = some m) (p : Port) :
    c.blocksOf p = if m.sender = p then m.chain.length else 0 := by
  unfold MessageState.blocksOf
  rw [h]

theorem MessageState.chain_of_message {c : MessageState} {m : Message} (h : c.message? = some m) :
    c.chain = m.chain := by
  unfold MessageState.chain
  rw [h]
  rfl

section

variable {st st' : Store} {i : RecordNo} {x : MessageRecord}

theorem BlocksSound.replace (hs : BlocksSound st) (hx : st'.records = (st.putRecord i x).records)
    (hblocks : (st'.freeBlocks ++ x.content.chain).Perm (st.freeBlocks ++ st.records[i].content.chain)) :
    BlocksSound st' := by
  let chains : List MessageRecord → List BlockNo := List.flatMap fun r => r.content.chain
  let others := st.records.toList.eraseIdx i.val
  have hnew : (chains st'.records.toList).Perm (x.content.chain ++ chains others) := by
    rw [hx]
    exact (toList_set_perm st.records i x).flatMap_right _
  have hold : (chains st.records.toList).Perm (st.records[i].content.chain ++ chains others) :=
    (toList_perm st.records i).flatMap_right _
  calc st'.freeBlocks ++ chains st'.records.toList
    List.Perm _ (st'.freeBlocks ++ (x.content.chain ++ chains others)) := hnew.append_left _
    List.Perm _ (st.freeBlocks ++ (st.records[i].content.chain ++ chains others)) := by
      rw [← List.append_assoc, ← List.append_assoc]
      exact hblocks.append_right _
    List.Perm _ (st.freeBlocks ++ chains st.records.toList) := (hold.append_left _).symm
    List.Perm _ (List.finRange 512) := hs

theorem ChainsSound.replace (hs : ChainsSound st) (hx : st'.records = (st.putRecord i x).records)
    (hchain : ∀ m ∈ x.content.message?, m.length ≤ 1024 ∧ m.chain.length = blocksFor m.length) :
    ChainsSound st' := by
  intro j
  rw [hx, Store.putRecord_get]
  split
  · exact hchain
  · exact hs j

theorem Store.blocksOf_replace (hx : st'.records = (st.putRecord i x).records) (p : Port) :
    st'.blocksOf p + st.records[i].content.blocksOf p = st.blocksOf p + x.content.blocksOf p := by
  rw [Store.blocksOf_eq, Store.blocksOf_eq, hx]
  exact sum_map_set st.records i x fun r => r.content.blocksOf p

/-- A record's blocks are among those that its sender holds. -/
theorem Store.record_blocksOf_le (st : Store) (i : RecordNo) (p : Port) :
    st.records[i].content.blocksOf p ≤ st.blocksOf p := by
  have h := Store.blocksOf_replace (st := st) (i := i) (x := ⟨0, .free⟩) rfl p
  have hfree : (MessageState.free).blocksOf p = 0 := rfl
  simp only [hfree] at h
  omega

theorem ChargesSound.replace (hs : ChargesSound st) (hx : st'.records = (st.putRecord i x).records)
    (hquota : st'.quota = st.quota)
    (hcharge : ∀ p,
      st'.charge.get p + st.records[i].content.blocksOf p = st.charge.get p + x.content.blocksOf p)
    (hbound : ∀ p, st'.charge.get p ≤ max (st.charge.get p) (st.quota.get p)) : ChargesSound st' := by
  intro p hp
  obtain ⟨hheld, hwithin, hmax⟩ := hs p hp
  have hblocks := Store.blocksOf_replace hx p
  have := hcharge p
  have := hbound p
  rw [hquota]
  exact ⟨by omega, by omega, hmax⟩

theorem Store.draftCount_replace (hx : st'.records = (st.putRecord i x).records) (p : Port) :
    st'.draftCount p + (if st.records[i].content.isDraftOf p then 1 else 0) =
      st.draftCount p + (if x.content.isDraftOf p then 1 else 0) := by
  unfold Store.draftCount
  rw [hx]
  exact countP_set st.records i x fun r => r.content.isDraftOf p

theorem DraftsBounded.replace (hs : DraftsBounded st) (hx : st'.records = (st.putRecord i x).records)
    (hdraft : ∀ p, x.content.isDraftOf p = true →
      st.records[i].content.isDraftOf p = true ∨ st.draftCount p < 2) : DraftsBounded st' := by
  intro p hp
  have hbound := hs p hp
  have hcount := Store.draftCount_replace hx p
  by_cases hnew : x.content.isDraftOf p = true
  · rcases hdraft p hnew with hold | hroom
    · rw [if_pos hnew, if_pos hold] at hcount
      omega
    · rw [if_pos hnew] at hcount
      omega
  · rw [if_neg hnew] at hcount
    omega

/-! ### The free-record queue (R42) -/

/-- A record in use replaced by one in use. -/
theorem FreeRecordsSound.replace (hs : FreeRecordsSound st) (hx : st'.records = (st.putRecord i x).records)
    (hqueue : st'.freeRecords = st.freeRecords) (hold : st.records[i].content ≠ .free)
    (hnew : x.content ≠ .free) : FreeRecordsSound st' := by
  obtain ⟨hnodup, hmem⟩ := hs
  refine ⟨hqueue ▸ hnodup, fun j => ?_⟩
  rw [hqueue, hx, Store.putRecord_get, hmem]
  split
  · rename_i hji
    subst hji
    exact iff_of_false hold hnew
  · rfl

/-- The record at the head of the queue taken into use. -/
theorem FreeRecordsSound.take (hs : FreeRecordsSound st) (hx : st'.records = (st.putRecord i x).records)
    (hqueue : st.freeRecords = i :: st'.freeRecords) (hnew : x.content ≠ .free) : FreeRecordsSound st' := by
  obtain ⟨hnodup, hmem⟩ := hs
  rw [hqueue] at hnodup
  obtain ⟨hnot, hrest⟩ := List.nodup_cons.1 hnodup
  refine ⟨hrest, fun j => ?_⟩
  rw [hx, Store.putRecord_get]
  split
  · rename_i hji
    subst hji
    exact iff_of_false hnot hnew
  · rename_i hji
    rw [← hmem, hqueue, List.mem_cons, or_iff_right hji]

/-- A record in use freed, at the tail of the queue. -/
theorem FreeRecordsSound.free (hs : FreeRecordsSound st) (hx : st'.records = (st.putRecord i x).records)
    (hqueue : st'.freeRecords = st.freeRecords ++ [i]) (hold : st.records[i].content ≠ .free)
    (hnew : x.content = .free) : FreeRecordsSound st' := by
  obtain ⟨hnodup, hmem⟩ := hs
  have hnot : i ∉ st.freeRecords := fun hi => hold ((hmem i).1 hi)
  refine ⟨?_, fun j => ?_⟩
  · rw [hqueue]
    exact List.nodup_append_comm.1 (List.nodup_cons.2 ⟨hnot, hnodup⟩)
  · rw [hqueue, hx, Store.putRecord_get, List.mem_append, List.mem_singleton]
    split
    · rename_i hji
      exact iff_of_true (.inr hji) hnew
    · rename_i hji
      rw [or_iff_left hji, hmem]

end

/-! ### The operations (R44, R46, R47, R50 to R52) -/

/-- An append whole: what it takes, writes and counts. -/
theorem Store.append_eq (st : Store) (i : RecordNo) (m : Message) (data : List Byte) :
    st.append i m data = { st with
      pool := writePayloadBytes (m.chain ++ st.freeBlocks.take (newBlocks m.length data.length)) st.pool
        m.length data
      freeBlocks := st.freeBlocks.drop (newBlocks m.length data.length)
      records := (st.putRecord i { st.records[i] with content := .draft { m with
        length := m.length + data.length
        chain := m.chain ++ st.freeBlocks.take (newBlocks m.length data.length) } }).records
      charge := st.charge.put m.sender (st.charge.get m.sender + newBlocks m.length data.length) } := rfl

theorem blocksFor_add_newBlocks (length n : Nat) :
    blocksFor length + newBlocks length n = blocksFor (length + n) := by
  have : blocksFor length ≤ blocksFor (length + n) := Nat.div_le_div_right (by omega)
  exact Nat.add_sub_of_le this

theorem Store.appendChecks_eq_none {st : Store} {m : Message} {n : Nat} :
    st.appendChecks m n = none ↔ m.length + n ≤ 1024 ∧
      (newBlocks m.length n ≠ 0 → st.charge.get m.sender + newBlocks m.length n ≤ st.quota.get m.sender) ∧
      newBlocks m.length n ≤ st.freeBlocks.length := by
  simp only [Store.appendChecks, firstFailing_eq_none, List.forall_mem_cons, List.not_mem_nil, false_imp_iff,
    implies_true, and_true, decide_eq_false_iff_not, not_and, Nat.not_lt]

section

variable {st : Store} {i : RecordNo}

theorem freeRecordsSound_openDraft {p : Port} {tag : BitVec 16} {rest : List RecordNo}
    (hs : FreeRecordsSound st) (hfree : st.freeRecords = i :: rest) :
    FreeRecordsSound (st.openDraft p tag i rest) :=
  hs.take (st' := st.openDraft p tag i rest) rfl hfree nofun

theorem freeRecordsSound_append {m : Message} (data : List Byte) (hs : FreeRecordsSound st)
    (h : st.records[i].content = .draft m) : FreeRecordsSound (st.append i m data) :=
  hs.replace (st' := st.append i m data) rfl rfl (by rw [h]; nofun) nofun

theorem freeRecordsSound_release {m : Message} (hs : FreeRecordsSound st)
    (h : st.records[i].content ≠ .free) : FreeRecordsSound (st.release i m) :=
  hs.free (st' := st.release i m) rfl rfl h rfl

theorem freeRecordsSound_putContent {c : MessageState} (hs : FreeRecordsSound st)
    (h : st.records[i].content ≠ .free) (hc : c ≠ .free) : FreeRecordsSound (st.putContent i c) :=
  hs.replace (st' := st.putContent i c) rfl rfl h hc

theorem freeRecordsSound_takeReference (hs : FreeRecordsSound st) (i : RecordNo) :
    FreeRecordsSound (st.takeReference i) := by
  match h : st.records[i].content with
  | .free => unfold Store.takeReference; rwa [h]
  | .draft m => rw [Store.takeReference_draft h]; exact freeRecordsSound_putContent hs (by rw [h]; nofun) nofun
  | .sealed m n =>
    rw [Store.takeReference_sealed h]
    exact freeRecordsSound_putContent hs (by rw [h]; nofun) nofun

theorem freeRecordsSound_dropReference (hs : FreeRecordsSound st) (i : RecordNo) :
    FreeRecordsSound (st.dropReference i) := by
  have hused {m : Message} {n : Nat} (h : st.records[i].content = .sealed m n) :
      st.records[i].content ≠ .free := by rw [h]; nofun
  unfold Store.dropReference
  split
  · rename_i m n h
    split
    · exact freeRecordsSound_release hs (hused h)
    · exact freeRecordsSound_putContent hs (hused h) nofun
  · exact hs

/-- The head of the free-record queue becomes a draft of a port that has fewer than two (R44). -/
theorem storeSound_openDraft {p : Port} {tag : BitVec 16} {rest : List RecordNo} (hs : StoreSound st)
    (hcount : st.draftCount p < 2) (hfree : st.freeRecords = i :: rest) :
    StoreSound (st.openDraft p tag i rest) := by
  obtain ⟨hblocks, hchains, hrecords, hcharges, hdrafts⟩ := hs
  have hold : st.records[i].content = .free := (hrecords.2 i).1 (by rw [hfree]; exact List.mem_cons_self ..)
  refine ⟨hblocks.replace (st' := st.openDraft p tag i rest) rfl ?_,
    hchains.replace (st' := st.openDraft p tag i rest) rfl ?_, freeRecordsSound_openDraft hrecords hfree,
    hcharges.replace (st' := st.openDraft p tag i rest) rfl rfl (fun q => ?_) fun q => le_max_left _ _,
    hdrafts.replace (st' := st.openDraft p tag i rest) rfl fun q hq => .inr ?_⟩
  · rw [hold]
    exact List.Perm.refl _
  · rintro _ ⟨⟩
    exact ⟨Nat.zero_le _, (by decide : 0 = blocksFor 0)⟩
  · rw [hold, MessageState.blocksOf_of_message (c := .draft ⟨p, tag, 0, []⟩) rfl]
    exact congrArg _ (ite_self 0).symm
  · rwa [← of_decide_eq_true hq]

/-- The blocks that an append takes leave the free list for the chain and the charge (R46). -/
theorem storeSound_append {m : Message} {data : List Byte} (hs : StoreSound st)
    (h : st.records[i].content = .draft m) (hchecks : st.appendChecks m data.length = none) :
    StoreSound (st.append i m data) := by
  obtain ⟨hblocks, hchains, hrecords, hcharges, hdrafts⟩ := hs
  obtain ⟨hlength, hquota, hroom⟩ := Store.appendChecks_eq_none.1 hchecks
  have hmessage : st.records[i].content.message? = some m := by rw [h]; rfl
  have hchain := (hchains i m hmessage).2
  have htaken : (st.freeBlocks.take (newBlocks m.length data.length)).length =
      newBlocks m.length data.length := by
    rw [List.length_take]; omega
  refine ⟨hblocks.replace (st' := st.append i m data) rfl ?_, hchains.replace (st' := st.append i m data) rfl ?_,
    freeRecordsSound_append data hrecords h,
    hcharges.replace (st' := st.append i m data) rfl rfl (fun q => ?_) (fun q => ?_),
    hdrafts.replace (st' := st.append i m data) rfl fun q hq => .inl ?_⟩
  · rw [MessageState.chain_of_message hmessage]
    calc st.freeBlocks.drop _ ++ (m.chain ++ st.freeBlocks.take _)
      List.Perm _ ((m.chain ++ st.freeBlocks.take _) ++ st.freeBlocks.drop _) := List.perm_append_comm
      List.Perm _ (m.chain ++ st.freeBlocks) := by rw [List.append_assoc, List.take_append_drop]
      List.Perm _ (st.freeBlocks ++ m.chain) := List.perm_append_comm
  · rintro _ ⟨⟩
    refine ⟨hlength, ?_⟩
    rw [List.length_append, htaken, hchain]
    exact blocksFor_add_newBlocks m.length data.length
  · rw [MessageState.blocksOf_of_message hmessage, MessageState.blocksOf_of_message rfl,
      Store.append_eq, PerPort.get_put_eq]
    by_cases hq : q = m.sender
    · subst hq
      rw [if_pos rfl, if_pos rfl, if_pos rfl, List.length_append, htaken]
      omega
    · rw [if_neg hq, if_neg (Ne.symm hq), if_neg (Ne.symm hq)]
  · rw [Store.append_eq, PerPort.get_put_eq]
    split
    · rename_i hq
      subst hq
      by_cases hneed : newBlocks m.length data.length = 0
      · rw [hneed]; exact le_max_left _ _
      · exact (hquota hneed).trans (le_max_right _ _)
    · exact le_max_left _ _
  · rw [h]
    exact hq

/-- A freed record's blocks return to the free list and out of its sender's charge (R47, R52). -/
theorem storeSound_release {m : Message} (hs : StoreSound st)
    (h : st.records[i].content.message? = some m) : StoreSound (st.release i m) := by
  obtain ⟨hblocks, hchains, hrecords, hcharges, hdrafts⟩ := hs
  have hused : st.records[i].content ≠ .free := fun hfree => by rw [hfree] at h; cases h
  refine ⟨hblocks.replace (st' := st.release i m) rfl ?_, hchains.replace (st' := st.release i m) rfl nofun,
    freeRecordsSound_release hrecords hused,
    hcharges.replace (st' := st.release i m) rfl rfl (fun q => ?_) (fun q => ?_),
    hdrafts.replace (st' := st.release i m) rfl nofun⟩
  · rw [MessageState.chain_of_message h]
    exact List.Perm.of_eq (List.append_nil _)
  · change (st.charge.put _ _).get q + _ = st.charge.get q + 0
    rw [MessageState.blocksOf_of_message h, PerPort.get_put_eq]
    have hheld := st.record_blocksOf_le i m.sender
    rw [← (hcharges m.sender (Port.mem_all _)).1, MessageState.blocksOf_of_message h, if_pos rfl] at hheld
    by_cases hq : q = m.sender
    · subst hq
      rw [if_pos rfl, if_pos rfl]
      omega
    · rw [if_neg hq, if_neg (Ne.symm hq)]
  · change (st.charge.put _ _).get q ≤ _
    rw [PerPort.get_put_eq]
    split
    · rename_i hq
      subst hq
      exact (Nat.sub_le ..).trans (le_max_left _ _)
    · exact le_max_left _ _

/-- A change of state or count that keeps the message and makes no draft (R50, R51). -/
theorem storeSound_reseal {m : Message} (n : Nat) (hs : StoreSound st)
    (h : st.records[i].content.message? = some m) : StoreSound (st.putContent i (.sealed m n)) := by
  obtain ⟨hblocks, hchains, hrecords, hcharges, hdrafts⟩ := hs
  have hused : st.records[i].content ≠ .free := fun hfree => by rw [hfree] at h; cases h
  have hnew : (MessageState.sealed m n).message? = some m := rfl
  refine ⟨hblocks.replace (st' := st.putContent i (.sealed m n)) rfl ?_,
    hchains.replace (st' := st.putContent i (.sealed m n)) rfl ?_, freeRecordsSound_putContent hrecords hused nofun,
    hcharges.replace (st' := st.putContent i (.sealed m n)) rfl rfl (fun q => ?_) fun q => le_max_left _ _,
    hdrafts.replace (st' := st.putContent i (.sealed m n)) rfl nofun⟩
  · rw [MessageState.chain_of_message h, MessageState.chain_of_message hnew]
    exact List.Perm.refl _
  · rintro _ ⟨⟩
    exact hchains i m h
  · rw [MessageState.blocksOf_of_message h, MessageState.blocksOf_of_message hnew]
    rfl

theorem storeSound_takeReference (hs : StoreSound st) (i : RecordNo) : StoreSound (st.takeReference i) := by
  unfold Store.takeReference
  split
  · rename_i m h
    exact storeSound_reseal 1 hs (by rw [h]; rfl)
  · rename_i m n h
    exact storeSound_reseal (n + 1) hs (by rw [h]; rfl)
  · exact hs

theorem storeSound_dropReference (hs : StoreSound st) (i : RecordNo) : StoreSound (st.dropReference i) := by
  unfold Store.dropReference
  split
  · rename_i m n h
    split
    · exact storeSound_release hs (by rw [h]; rfl)
    · exact storeSound_reseal (n - 1) hs (by rw [h]; rfl)
  · exact hs

/-- A quota replaced by one that is no less than the charge (R58). -/
theorem storeSound_setQuota {p : Port} {value : Nat} (hs : StoreSound st) (hmax : value ≤ 512)
    (hcharge : st.charge.get p ≤ value) : StoreSound { st with quota := st.quota.put p value } := by
  obtain ⟨hblocks, hchains, hrecords, hcharges, hdrafts⟩ := hs
  refine ⟨hblocks, hchains, hrecords, fun q hq => ?_, hdrafts⟩
  obtain ⟨hheld, hwithin, hbound⟩ := hcharges q hq
  change st.charge.get q = st.blocksOf q ∧ st.charge.get q ≤ (st.quota.put p value).get q ∧ _
  rw [PerPort.get_put_eq]
  split
  · rename_i hqp
    subst hqp
    exact ⟨hheld, hcharge, hmax⟩
  · exact ⟨hheld, hwithin, hbound⟩

/-- Device reset: every block free, every record FREE, no charge (R62). -/
theorem storeSound_reset : StoreSound .reset := by
  have hcontent : ∀ j : RecordNo, Store.reset.records[j].content = .free := fun j => by simp [Store.reset]
  have hrecords : Store.reset.records.toList = List.replicate 128 ⟨0, .free⟩ := by
    simp [Store.reset]
  refine ⟨?_, fun j m hm => ?_, ⟨List.nodup_finRange 128, fun j => ?_⟩, fun p _ => ⟨?_, ?_, ?_⟩, fun p _ => ?_⟩
  · unfold BlocksSound
    rw [hrecords]
    refine List.Perm.of_eq ?_
    simp [Store.reset, MessageState.chain, MessageState.message?]
  · rw [hcontent] at hm
    cases hm
  · exact iff_of_true (List.mem_finRange j) (hcontent j)
  · rw [Store.blocksOf_eq, hrecords]
    cases p <;> simp [Store.reset, PerPort.get, MessageState.blocksOf, MessageState.message?]
  · cases p <;> decide
  · cases p <;> decide
  · rw [draftCount_eq_zero.2 fun j => by rw [hcontent]; rfl]
    exact Nat.zero_le 2

end

end Sys2Proof.Machine

/-! What the part can do to messages, entries and inbox records, move by move (R44 to R52, R71 to R76, R95,
R102), and what every move keeps: the Message Store's own promises, and each reference count the number of
entries and inbox records that name the message. -/

namespace Sys2Proof.Machine

/-! ### The moves -/

/-- What messages, entries and inbox records rest on stands as it is: settings of inboxes, the release state and
every other block may differ. -/
structure SameMessages (s t : State) : Prop where
  store : t.store = s.store
  entries : t.calendar.records = s.calendar.records
  armed : t.calendar.armed = s.calendar.armed
  freeEntries : t.calendar.freeRecords = s.calendar.freeRecords
  inboxes : ∀ p, (t.inboxes.get p).records = (s.inboxes.get p).records

/-- The action names the message record. -/
def EntryAction.names (i : RecordNo) : EntryAction → Bool
  | .deliver _ h => decide (h.record = i)
  | .line _ _ => false

/-- One move on messages, entries or inbox records, with what the part has checked by then. -/
inductive MessageMove : State → State → Prop
  | other {s t : State} (h : SameMessages s t) : MessageMove s t
  | openDraft (s : State) (p : Port) (tag : BitVec 16) (i : RecordNo) (rest : List RecordNo)
      (hcount : s.store.draftCount p < 2) (hfree : s.store.freeRecords = i :: rest) :
      MessageMove s { s with store := s.store.openDraft p tag i rest }
  | append (s : State) (i : RecordNo) (m : Message) (data : List Byte)
      (hdraft : s.store.records[i].content = .draft m)
      (hchecks : s.store.appendChecks m data.length = none) :
      MessageMove s { s with store := s.store.append i m data }
  | abandon (s : State) (i : RecordNo) (m : Message) (hdraft : s.store.records[i].content = .draft m) :
      MessageMove s { s with store := s.store.release i m }
  | setQuota (s : State) (p : Port) (value : Nat) (hmax : value ≤ 512)
      (hcharge : s.store.charge.get p ≤ value) :
      MessageMove s { s with store := { s.store with quota := s.store.quota.put p value } }
  | place (s : State) (o : Occurrence) (h : Handle) (p : Port)
      (hnamed : ∃ k : RecordNo, s.calendar.records[k].content.names h.record = true) :
      MessageMove s (place o h p s)
  | removeHead (s : State) (p : Port) : MessageMove s (removeHead p s)
  | schedule (s : State) (i : RecordNo) (rest : List RecordNo) (e : Entry) (r : Point)
      (hfree : s.calendar.freeRecords = i :: rest)
      (hused : ∀ j, e.action.names j = true → s.store.records[j].content ≠ .free) :
      MessageMove s (takeEntryReference e.action { s with calendar := s.calendar.take i rest e r })
  | rearm (s : State) (i : RecordNo) (e e' : Entry) (r : Point)
      (harmed : s.calendar.records[i].content = .armed e) (haction : e'.action = e.action) :
      MessageMove s { s with calendar := s.calendar.arm i e' r }
  | finish (s : State) (i : RecordNo) (e e' : Entry) (cause : FinishCause)
      (harmed : s.calendar.records[i].content = .armed e) (haction : e'.action = e.action) :
      MessageMove s (finishEntry i e' cause s)

/-- Any number of moves. -/
abbrev MessageMoves : State → State → Prop := Relation.ReflTransGen MessageMove

/-- What every move keeps, any number of moves keeps. -/
theorem MessageMoves.keeps {P : State → Prop} (hP : ∀ s t, MessageMove s t → P s → P t) {s t : State}
    (h : MessageMoves s t) (hs : P s) : P t := by
  induction h with
  | refl => exact hs
  | tail _ hmove ih => exact hP _ _ hmove ih

/-! ### The Message Store under every move -/

@[simp] theorem removeHead_calendar (p : Port) (s : State) : (removeHead p s).calendar = s.calendar := by
  unfold removeHead
  split <;> rfl

/-- A removal drops the reference of the record it takes, if there is one. -/
theorem removeHead_store (p : Port) (s : State) : (removeHead p s).store = s.store ∨
    ∃ i, (removeHead p s).store = s.store.dropReference i := by
  unfold removeHead
  split
  · exact .inl rfl
  · exact .inr ⟨_, rfl⟩

theorem takeEntryReference_store (a : EntryAction) (s : State) : (takeEntryReference a s).store = s.store ∨
    ∃ i, (takeEntryReference a s).store = s.store.takeReference i := by
  cases a with
  | deliver ts h => exact .inr ⟨h.record, rfl⟩
  | line o act => exact .inl rfl

theorem finishEntry_store (i : RecordNo) (e : Entry) (cause : FinishCause) (s : State) :
    (finishEntry i e cause s).store = s.store ∨
      ∃ j, (finishEntry i e cause s).store = s.store.dropReference j := by
  unfold finishEntry dropEntryReference
  split
  · exact .inr ⟨_, rfl⟩
  · exact .inl rfl

/-- The Message Store's own promises, the canonical form of its pool among them. -/
abbrev StoreKept (st : Store) : Prop := StoreSound st ∧ Memory.wf st.pool = true

theorem storeKept_takeReference {st : Store} (h : StoreKept st) (i : RecordNo) : StoreKept (st.takeReference i) :=
  ⟨storeSound_takeReference h.1 i, by rw [Store.takeReference_pool]; exact h.2⟩

theorem storeKept_dropReference {st : Store} (h : StoreKept st) (i : RecordNo) : StoreKept (st.dropReference i) :=
  ⟨storeSound_dropReference h.1 i, by rw [Store.dropReference_pool]; exact h.2⟩

/-- No move breaks a promise of the Message Store. -/
theorem MessageMove.storeKept {s t : State} (h : MessageMove s t) (hs : StoreKept s.store) :
    StoreKept t.store := by
  obtain ⟨hsound, hwf⟩ := id hs
  cases h with
  | other h => rwa [h.store]
  | openDraft p tag i rest hcount hfree => exact ⟨storeSound_openDraft hsound hcount hfree, hwf⟩
  | append i m data hdraft hchecks =>
    exact ⟨storeSound_append hsound hdraft hchecks, Store.append_wf _ i m data hwf⟩
  | abandon i m hdraft => exact ⟨storeSound_release hsound (by rw [hdraft]; rfl), hwf⟩
  | setQuota p value hmax hcharge => exact ⟨storeSound_setQuota hsound hmax hcharge, hwf⟩
  | place o h p hnamed => exact storeKept_takeReference hs h.record
  | removeHead p =>
    rcases removeHead_store p s with hst | ⟨i, hst⟩ <;> rw [hst]
    · exact hs
    · exact storeKept_dropReference hs i
  | schedule i rest e r hfree hused =>
    rcases takeEntryReference_store e.action { s with calendar := s.calendar.take i rest e r } with
      hst | ⟨j, hst⟩ <;> rw [hst]
    · exact hs
    · exact storeKept_takeReference hs j
  | rearm i e e' r harmed haction => exact hs
  | finish i e e' cause harmed haction =>
    rcases finishEntry_store i e' cause s with hst | ⟨j, hst⟩ <;> rw [hst]
    · exact hs
    · exact storeKept_dropReference hs j

/-! ### Reference counts against the number of namings (R50, R51) -/

/-- A record's reference count is `n`, and a SEALED message has one at least. -/
def MessageState.Counted (c : MessageState) (n : Nat) : Prop := c.refs = n ∧ (c.isSealed = true → 1 ≤ n)

theorem referencesExact_iff {s : State} :
    ReferencesExact s ↔ ∀ i : RecordNo, s.store.records[i].content.Counted (s.namingCount i) := Iff.rfl

@[simp] theorem MessageState.counted_free {n : Nat} : MessageState.free.Counted n ↔ n = 0 := by
  simp [MessageState.Counted, MessageState.refs, MessageState.isSealed, eq_comm]

@[simp] theorem MessageState.counted_draft {m : Message} {n : Nat} :
    (MessageState.draft m).Counted n ↔ n = 0 := by
  simp [MessageState.Counted, MessageState.refs, MessageState.isSealed, eq_comm]

@[simp] theorem MessageState.counted_sealed {m : Message} {k n : Nat} :
    (MessageState.sealed m k).Counted n ↔ k = n ∧ 1 ≤ n := by
  simp [MessageState.Counted, MessageState.refs, MessageState.isSealed]

/-- Nothing names what is not SEALED. -/
theorem MessageState.counted_unsealed {c : MessageState} {n : Nat} (h : c.isSealed = false) :
    c.Counted n ↔ n = 0 := by
  match c with
  | .free => exact counted_free
  | .draft m => exact counted_draft
  | .sealed m k => cases h

theorem Store.putContent_content (st : Store) (i j : RecordNo) (c : MessageState) :
    (st.putContent i c).records[j].content = if j = i then c else st.records[j].content := by
  unfold Store.putContent
  rw [Store.putRecord_get]
  split <;> rfl

theorem Store.takeReference_other (st : Store) {i j : RecordNo} (h : j ≠ i) :
    (st.takeReference i).records[j] = st.records[j] := by
  have hput (x : MessageRecord) : (st.putRecord i x).records[j] = st.records[j] := by
    rw [Store.putRecord_get, if_neg h]
  unfold Store.takeReference
  split
  · exact hput _
  · exact hput _
  · rfl

theorem Store.dropReference_other (st : Store) {i j : RecordNo} (h : j ≠ i) :
    (st.dropReference i).records[j] = st.records[j] := by
  have hput (x : MessageRecord) : (st.putRecord i x).records[j] = st.records[j] := by
    rw [Store.putRecord_get, if_neg h]
  unfold Store.dropReference
  split
  · split <;> exact hput _
  · rfl

/-- A reference taken on a message in use is one more. -/
theorem Store.takeReference_counted {st : Store} {i : RecordNo} {n : Nat}
    (h : st.records[i].content.Counted n) (hused : st.records[i].content ≠ .free) :
    (st.takeReference i).records[i].content.Counted (n + 1) := by
  match hc : st.records[i].content with
  | .free => exact absurd hc hused
  | .draft m =>
    rw [hc, MessageState.counted_draft] at h
    rw [Store.takeReference_draft hc, Store.putContent_content, if_pos rfl, MessageState.counted_sealed]
    omega
  | .sealed m k =>
    rw [hc, MessageState.counted_sealed] at h
    rw [Store.takeReference_sealed hc, Store.putContent_content, if_pos rfl, MessageState.counted_sealed]
    omega

/-- A reference dropped is one less, and the message is freed with the last. -/
theorem Store.dropReference_counted {st : Store} {i : RecordNo} {n : Nat}
    (h : st.records[i].content.Counted (n + 1)) : (st.dropReference i).records[i].content.Counted n := by
  match hc : st.records[i].content with
  | .free =>
    rw [hc, MessageState.counted_free] at h
    cases h
  | .draft m =>
    rw [hc, MessageState.counted_draft] at h
    cases h
  | .sealed m k =>
    rw [hc, MessageState.counted_sealed] at h
    by_cases hk : k ≤ 1
    · rw [Store.dropReference_last hc hk]
      change ((st.putContent i .free).records[i]).content.Counted n
      rw [Store.putContent_content, if_pos rfl, MessageState.counted_free]
      omega
    · rw [Store.dropReference_more hc (by omega), Store.putContent_content, if_pos rfl,
        MessageState.counted_sealed]
      omega

/-! ### How many entries and inbox records name a message -/

/-- The ARMED entries that name the message record. -/
def Calendar.namingCount (c : Calendar) (i : RecordNo) : Nat :=
  c.records.toList.countP fun r => r.content.names i

/-- The inbox records that name the message record. -/
def inboxNamingCount (v : PerPort Inbox) (i : RecordNo) : Nat :=
  (Port.all.map fun p => (v.get p).records.countP fun d => decide (d.message.record = i)).sum

theorem State.namingCount_eq (s : State) (i : RecordNo) :
    s.namingCount i = s.calendar.namingCount i + inboxNamingCount s.inboxes i := rfl

/-- One more for what names the record, none for what does not. -/
abbrev countIf (b : Bool) : Nat := if b then 1 else 0

theorem names_armed (e : Entry) (i : RecordNo) : (EntryState.armed e).names i = e.action.names i := rfl

theorem names_of_not_armed {c : EntryState} (h : c.isArmed = false) (i : RecordNo) : c.names i = false := by
  cases c with
  | free => rfl
  | armed e => cases h
  | finished e cause => rfl

theorem Calendar.namingCount_putRecord {c c' : Calendar} {i : RecordNo} {x : EntryRecord}
    (hx : c'.records = (c.putRecord i x).records) (j : RecordNo) :
    c'.namingCount j + countIf (c.records[i].content.names j) = c.namingCount j + countIf (x.content.names j) := by
  unfold Calendar.namingCount
  rw [hx]
  exact countP_set c.records i x fun r => r.content.names j

theorem Calendar.namingCount_pos {c : Calendar} {j : RecordNo} (i : RecordNo)
    (h : c.records[i].content.names j = true) : 1 ≤ c.namingCount j :=
  List.countP_pos_iff.2 ⟨c.records[i], by simp, h⟩

theorem Calendar.namingCount_arm (c : Calendar) (i : RecordNo) (e : Entry) (r : Point) (j : RecordNo) :
    (c.arm i e r).namingCount j + countIf (c.records[i].content.names j) =
      c.namingCount j + countIf (e.action.names j) :=
  Calendar.namingCount_putRecord (c' := c.arm i e r) rfl j

theorem Calendar.namingCount_finish (c : Calendar) (i : RecordNo) (e : Entry) (cause : FinishCause)
    (j : RecordNo) :
    (c.finish i e cause).namingCount j + countIf (c.records[i].content.names j) = c.namingCount j :=
  Calendar.namingCount_putRecord (c' := c.finish i e cause) rfl j

/-- An entry admitted into a record that was not ARMED names what it names beside the others. -/
theorem Calendar.namingCount_take {c : Calendar} {i : RecordNo} (h : c.records[i].content.isArmed = false)
    (rest : List RecordNo) (e : Entry) (r : Point) (j : RecordNo) :
    (c.take i rest e r).namingCount j = c.namingCount j + countIf (e.action.names j) := by
  let taken : Calendar :=
    { c.putRecord i { gen := c.records[i].gen + 1, content := .free } with freeRecords := rest }
  have htaken : taken.namingCount j + countIf (c.records[i].content.names j) = c.namingCount j :=
    Calendar.namingCount_putRecord (c' := taken) rfl j
  have hfree : taken.records[i].content = .free := by
    change ((c.putRecord i _).records[i]).content = .free
    rw [Calendar.putRecord_get, if_pos rfl]
  have harmed := taken.namingCount_arm i e r j
  rw [names_of_not_armed h] at htaken
  rw [hfree] at harmed
  calc (c.take i rest e r).namingCount j
      = taken.namingCount j + countIf (e.action.names j) := harmed
    _ = c.namingCount j + countIf (e.action.names j) := by rw [← htaken]; rfl

theorem inboxNamingCount_put (v : PerPort Inbox) (p : Port) (x : Inbox) (i : RecordNo) :
    inboxNamingCount (v.put p x) i + (v.get p).records.countP (fun d => decide (d.message.record = i)) =
      inboxNamingCount v i + x.records.countP fun d => decide (d.message.record = i) := by
  cases p <;> simp only [inboxNamingCount, Port.all, List.map_cons, List.map_nil, List.sum_cons, List.sum_nil,
    PerPort.get, PerPort.put] <;> omega

theorem inboxNamingCount_congr {v w : PerPort Inbox} (h : ∀ p, (w.get p).records = (v.get p).records)
    (i : RecordNo) : inboxNamingCount w i = inboxNamingCount v i := by
  simp only [inboxNamingCount, h]

/-! ### References under every move -/

section

variable {s t : State}

/-- A move that takes a reference with each naming it adds. -/
theorem referencesExact_take {i : RecordNo} (hs : ReferencesExact s)
    (hstore : t.store = s.store.takeReference i) (hused : s.store.records[i].content ≠ .free)
    (hcount : ∀ j, t.namingCount j = s.namingCount j + countIf (decide (i = j))) : ReferencesExact t := by
  refine referencesExact_iff.2 fun j => ?_
  have hj := referencesExact_iff.1 hs j
  rw [hstore, hcount]
  by_cases hij : i = j
  · subst hij
    rw [decide_eq_true rfl]
    exact Store.takeReference_counted hj hused
  · rw [decide_eq_false hij, Store.takeReference_other _ (Ne.symm hij)]
    exact hj

/-- A move that drops a reference with each naming it removes. -/
theorem referencesExact_drop {i : RecordNo} (hs : ReferencesExact s)
    (hstore : t.store = s.store.dropReference i)
    (hcount : ∀ j, s.namingCount j = t.namingCount j + countIf (decide (i = j))) : ReferencesExact t := by
  refine referencesExact_iff.2 fun j => ?_
  have hj := referencesExact_iff.1 hs j
  rw [hcount] at hj
  rw [hstore]
  by_cases hij : i = j
  · subst hij
    rw [decide_eq_true rfl] at hj
    exact Store.dropReference_counted hj
  · rw [decide_eq_false hij] at hj
    rw [Store.dropReference_other _ (Ne.symm hij)]
    exact hj

/-- A move on the Message Store that replaces one record that is not SEALED by another. -/
theorem referencesExact_unsealed {i : RecordNo} {x : MessageRecord} {st : Store} (hs : ReferencesExact s)
    (hx : st.records = (s.store.putRecord i x).records) (hold : s.store.records[i].content.isSealed = false)
    (hnew : x.content.isSealed = false) : ReferencesExact { s with store := st } := by
  refine referencesExact_iff.2 fun j => ?_
  have hj := referencesExact_iff.1 hs j
  change st.records[j].content.Counted (s.namingCount j)
  rw [hx, Store.putRecord_get]
  split
  · rename_i hji
    subst hji
    exact (MessageState.counted_unsealed hnew).2 ((MessageState.counted_unsealed hold).1 hj)
  · exact hj

theorem referencesExact_congr (hs : ReferencesExact s) (hr : t.store.records = s.store.records)
    (hcount : ∀ j, t.namingCount j = s.namingCount j) : ReferencesExact t :=
  referencesExact_iff.2 fun j => by
    rw [hr, hcount]
    exact referencesExact_iff.1 hs j

/-- What an ARMED entry or an inbox record names is in use. -/
theorem ReferencesExact.used (hs : ReferencesExact s) {j : RecordNo} (h : 1 ≤ s.namingCount j) :
    s.store.records[j].content ≠ .free := by
  intro hfree
  have hj := referencesExact_iff.1 hs j
  rw [hfree, MessageState.counted_free] at hj
  omega

theorem referencesExact_takeEntryReference {a : EntryAction} {c : Calendar} (hs : ReferencesExact s)
    (hused : ∀ j, a.names j = true → s.store.records[j].content ≠ .free)
    (hcount : ∀ j, c.namingCount j = s.calendar.namingCount j + countIf (a.names j)) :
    ReferencesExact (takeEntryReference a { s with calendar := c }) := by
  have hnaming (j : RecordNo) : (takeEntryReference a { s with calendar := c }).namingCount j =
      s.namingCount j + countIf (a.names j) := by
    have : (takeEntryReference a { s with calendar := c }).namingCount j =
        c.namingCount j + inboxNamingCount s.inboxes j := by cases a <;> rfl
    rw [this, hcount, State.namingCount_eq]
    omega
  cases a with
  | deliver ts h => exact referencesExact_take hs rfl (hused _ (decide_eq_true rfl)) hnaming
  | line o act => exact referencesExact_congr hs rfl hnaming

theorem referencesExact_finishEntry {i : RecordNo} {e e' : Entry} {cause : FinishCause}
    (hs : ReferencesExact s) (harmed : s.calendar.records[i].content = .armed e)
    (haction : e'.action = e.action) : ReferencesExact (finishEntry i e' cause s) := by
  have hnaming (j : RecordNo) : s.namingCount j =
      (finishEntry i e' cause s).namingCount j + countIf (e'.action.names j) := by
    have hfinish := s.calendar.namingCount_finish i e' cause j
    have : (finishEntry i e' cause s).namingCount j =
        (s.calendar.finish i e' cause).namingCount j + inboxNamingCount s.inboxes j := by
      unfold finishEntry dropEntryReference
      split <;> rfl
    rw [harmed, names_armed, ← haction] at hfinish
    rw [this, State.namingCount_eq, ← hfinish]
    omega
  cases ha : e'.action with
  | deliver ts h =>
    rw [ha] at hnaming
    refine referencesExact_drop (i := h.record) hs ?_ hnaming
    unfold finishEntry dropEntryReference
    rw [ha]
    rfl
  | line o act =>
    rw [ha] at hnaming
    refine referencesExact_congr hs ?_ fun j => (hnaming j).symm
    unfold finishEntry dropEntryReference
    rw [ha]

theorem referencesExact_place {o : Occurrence} {h : Handle} {p : Port} (hs : ReferencesExact s)
    (hnamed : ∃ k : RecordNo, s.calendar.records[k].content.names h.record = true) :
    ReferencesExact (place o h p s) := by
  obtain ⟨k, hk⟩ := hnamed
  have hpos := Calendar.namingCount_pos k hk
  refine referencesExact_take (i := h.record) hs rfl (hs.used (hpos.trans (Nat.le_add_right ..))) fun j => ?_
  have hput := inboxNamingCount_put s.inboxes p ((s.inboxes.get p).append (deliveryRecord s o h)) j
  have hone : ((s.inboxes.get p).append (deliveryRecord s o h)).records.countP
      (fun d => decide (d.message.record = j)) =
      (s.inboxes.get p).records.countP (fun d => decide (d.message.record = j)) +
        countIf (decide (h.record = j)) := by
    simp [Inbox.append, List.countP_append, deliveryRecord, List.countP_cons, countIf]
  change s.calendar.namingCount j + inboxNamingCount (s.inboxes.put p _) j = _
  rw [State.namingCount_eq]
  omega

theorem referencesExact_removeHead (hs : ReferencesExact s) (p : Port) : ReferencesExact (removeHead p s) := by
  unfold removeHead
  split
  · exact hs
  · rename_i d rest hd
    refine referencesExact_drop (i := d.message.record) hs rfl fun j => ?_
    have hput := inboxNamingCount_put s.inboxes p { s.inboxes.get p with records := rest } j
    rw [hd, List.countP_cons] at hput
    change _ = s.calendar.namingCount j + inboxNamingCount (s.inboxes.put p _) j + countIf _
    rw [State.namingCount_eq]
    dsimp only [countIf] at hput ⊢
    omega

/-- No move leaves a count that is not the number of namings. -/
theorem MessageMove.referencesExact (h : MessageMove s t) (hc : ArmedListComplete s.calendar)
    (hf : FreeRecordsSound s.store) (hs : ReferencesExact s) : ReferencesExact t := by
  cases h with
  | other h =>
    refine referencesExact_congr hs (by rw [h.store]) fun j => ?_
    rw [State.namingCount_eq, State.namingCount_eq, inboxNamingCount_congr h.inboxes]
    unfold Calendar.namingCount
    rw [h.entries]
  | openDraft p tag i rest hcount hfree =>
    have hold : s.store.records[i].content = .free := (hf.2 i).1 (by rw [hfree]; exact List.mem_cons_self ..)
    exact referencesExact_unsealed hs rfl (by rw [hold]; rfl) rfl
  | append i m data hdraft hchecks => exact referencesExact_unsealed hs rfl (by rw [hdraft]; rfl) rfl
  | abandon i m hdraft => exact referencesExact_unsealed hs rfl (by rw [hdraft]; rfl) rfl
  | setQuota p value hmax hcharge => exact referencesExact_congr hs rfl fun _ => rfl
  | place o h p hnamed => exact referencesExact_place hs hnamed
  | removeHead p => exact referencesExact_removeHead hs p
  | schedule i rest e r hfree hused =>
    obtain ⟨-, -, hrecords⟩ := hc
    have hi : s.calendar.records[i].content.isArmed = false :=
      (hrecords i).2.1 (by rw [hfree]; exact List.mem_cons_self ..)
    exact referencesExact_takeEntryReference hs hused fun j => Calendar.namingCount_take hi rest e r j
  | rearm i e e' r harmed haction =>
    refine referencesExact_congr hs rfl fun j => ?_
    have harm := s.calendar.namingCount_arm i e' r j
    rw [harmed, names_armed, haction] at harm
    change (s.calendar.arm i e' r).namingCount j + inboxNamingCount s.inboxes j = _
    rw [State.namingCount_eq]
    omega
  | finish i e e' cause harmed haction => exact referencesExact_finishEntry hs harmed haction

/-! ### The armed list and the free records under every move -/

theorem MessageMove.armedListComplete (h : MessageMove s t) (hc : ArmedListComplete s.calendar) :
    ArmedListComplete t.calendar := by
  cases h with
  | other h =>
    unfold ArmedListComplete
    rw [h.armed, h.freeEntries, h.entries]
    exact hc
  | openDraft => exact hc
  | append => exact hc
  | abandon => exact hc
  | setQuota => exact hc
  | place => exact hc
  | removeHead p =>
    rw [removeHead_calendar]
    exact hc
  | schedule i rest e r hfree hused =>
    have hcalendar : (takeEntryReference e.action { s with calendar := s.calendar.take i rest e r }).calendar =
        s.calendar.take i rest e r := by cases e.action <;> rfl
    rw [hcalendar]
    exact Calendar.complete_take hc hfree e r
  | rearm i e e' r harmed haction => exact (Calendar.completeBut_of_armed hc harmed).arm e' r
  | finish i e e' cause harmed haction =>
    rw [finishEntry_calendar]
    exact (Calendar.completeBut_of_armed hc harmed).finish e' cause

theorem MessageMove.freeRecordsSound (h : MessageMove s t) (hf : FreeRecordsSound s.store) :
    FreeRecordsSound t.store := by
  cases h with
  | other h => rwa [h.store]
  | openDraft p tag i rest hcount hfree => exact freeRecordsSound_openDraft hf hfree
  | append i m data hdraft hchecks => exact freeRecordsSound_append data hf hdraft
  | abandon i m hdraft => exact freeRecordsSound_release hf (by rw [hdraft]; nofun)
  | setQuota p value hmax hcharge => exact hf
  | place o h p hnamed => exact freeRecordsSound_takeReference hf h.record
  | removeHead p =>
    rcases removeHead_store p s with hst | ⟨i, hst⟩ <;> rw [hst]
    · exact hf
    · exact freeRecordsSound_dropReference hf i
  | schedule i rest e r hfree hused =>
    rcases takeEntryReference_store e.action { s with calendar := s.calendar.take i rest e r } with
      hst | ⟨j, hst⟩ <;> rw [hst]
    · exact hf
    · exact freeRecordsSound_takeReference hf j
  | rearm i e e' r harmed haction => exact hf
  | finish i e e' cause harmed haction =>
    rcases finishEntry_store i e' cause s with hst | ⟨j, hst⟩ <;> rw [hst]
    · exact hf
    · exact freeRecordsSound_dropReference hf j

theorem MessageMove.referencesSound (h : MessageMove s t) (hs : ReferencesSound s) : ReferencesSound t := by
  obtain ⟨hc, hf, hexact⟩ := hs
  exact ⟨h.armedListComplete hc, h.freeRecordsSound hf, h.referencesExact hc hf hexact⟩

end

end Sys2Proof.Machine

/-! Every operation of the part is a number of moves on messages, entries and inbox records: releases, the
clock, the loss of the authority and the end of a session. -/

namespace Sys2Proof.Machine

/-! ### What moves nothing -/

/-- What leaves store, calendar and inboxes alone moves nothing. -/
theorem moves_of_eq {s t : State} (hst : t.store = s.store) (hc : t.calendar = s.calendar)
    (hi : t.inboxes = s.inboxes) : MessageMoves s t :=
  .single (.other ⟨hst, by rw [hc], by rw [hc], by rw [hc], fun p => by rw [hi]⟩)

theorem moves_foldl {α : Type} {f : State → α → State} (h : ∀ s x, MessageMoves s (f s x)) (l : List α)
    (s : State) : MessageMoves s (l.foldl f s) := by
  induction l generalizing s with
  | nil => exact .refl
  | cons x l ih => exact (h s x).trans (ih (f s x))

theorem moves_report (p : Port) (cause : Stamp) (b : ReportBody) (s : State) :
    MessageMoves s (report p cause b s) :=
  moves_of_eq (report_store ..) (report_calendar ..) (report_inboxes ..)

theorem moves_reportNow (p : Port) (b : ReportBody) (s : State) : MessageMoves s (reportNow p b s) :=
  moves_report _ _ _ _

theorem moves_reportHolder (b : ReportBody) (s : State) : MessageMoves s (reportHolder b s) :=
  moves_of_eq (reportHolder_store ..) (reportHolder_calendar ..) (reportHolder_inboxes ..)

/-- An inbox with the records it had. -/
theorem moves_putInbox {s : State} {p : Port} {x : Inbox} (h : x.records = (s.inboxes.get p).records) :
    MessageMoves s (s.putInbox p x) := by
  refine .single (.other ⟨rfl, rfl, rfl, rfl, fun q => ?_⟩)
  rw [State.putInbox_inboxes, PerPort.get_put_eq]
  split
  · rename_i hq
    rw [hq, h]
  · rfl

theorem moves_releaseState (s : State) (x : ReleaseState) :
    MessageMoves s { s with calendar := { s.calendar with releaseState := x } } :=
  .single (.other ⟨rfl, rfl, rfl, rfl, fun _ => rfl⟩)

/-! ### Releases (R73 to R76, R95) -/

theorem moves_finishEntry {s : State} {i : RecordNo} {e e' : Entry} (cause : FinishCause)
    (harmed : s.calendar.records[i].content = .armed e) (haction : e'.action = e.action) :
    MessageMoves s (finishEntry i e' cause s) :=
  .single (.finish s i e e' cause harmed haction)

theorem moves_arm {s : State} {i : RecordNo} {e e' : Entry} (r : Point)
    (harmed : s.calendar.records[i].content = .armed e) (haction : e'.action = e.action) :
    MessageMoves s { s with calendar := s.calendar.arm i e' r } :=
  .single (.rearm s i e e' r harmed haction)

/-- The targets of a message that an ARMED entry names, visited one by one. -/
theorem moves_visits {o : Occurrence} {h : Handle} {k : RecordNo} :
    ∀ (ps : List Port) (x : Placement), x.state.calendar.records[k].content.names h.record = true →
      MessageMoves x.state (ps.foldl (visit o h) x).state
  | [], x, _ => .refl
  | p :: ps, x, hk => by
    have hvisit : MessageMoves x.state (visit o h x p).state ∧
        (visit o h x p).state.calendar = x.state.calendar := by
      unfold visit
      split
      · exact ⟨.refl, rfl⟩
      · exact ⟨.single (.place x.state o h p ⟨k, hk⟩), rfl⟩
    obtain ⟨hmoves, hcalendar⟩ := hvisit
    exact hmoves.trans (moves_visits ps _ (by rwa [hcalendar]))

theorem moves_handOn (o : Occurrence) {s : State} {k : RecordNo} {e : Entry}
    (harmed : s.calendar.records[k].content = .armed e) : MessageMoves s (handOn o e.action s).1 := by
  cases ha : e.action with
  | deliver ts h =>
    have hk : s.calendar.records[k].content.names h.record = true := by
      rw [harmed, names_armed, ha]
      exact decide_eq_true rfl
    have hplaced : MessageMoves s (placeAll o ts h s).state := moves_visits _ ⟨s, _, []⟩ hk
    change MessageMoves s (deliverOccurrence o ts h s).1
    unfold deliverOccurrence
    dsimp only
    split
    · exact hplaced
    · exact hplaced.trans (moves_reportNow _ _ _)
  | line out act =>
    by_cases h : s.events.outOwner.get out = some o.owner
    · rw [handOn_line_driven act h]
      exact moves_of_eq rfl rfl rfl
    · rw [handOn_line_refused act h]
      exact moves_reportNow _ _ s

theorem moves_reportRelease (e : Entry) (o : Occurrence) (x : ReleaseOutcome) (s : State) :
    MessageMoves s (reportRelease e o x s) := by
  unfold reportRelease
  split
  · exact moves_reportNow _ _ s
  · exact .refl

theorem moves_settleFate {s : State} {i : RecordNo} {e e' : Entry} (h : Handle) (fate : Fate)
    (harmed : s.calendar.records[i].content = .armed e) (haction : e'.action = e.action) :
    MessageMoves s (settleFate i h e' fate s) := by
  cases fate with
  | rearm next => exact moves_arm next harmed haction
  | finish cause => exact (moves_finishEntry cause harmed haction).trans (moves_reportNow _ _ _)

theorem moves_releaseEntry (late : Bool) (s : State) (i : RecordNo) : MessageMoves s (releaseEntry late s i) := by
  unfold releaseEntry
  split
  · rename_i e harmed
    refine ((moves_handOn _ harmed).trans (moves_reportRelease _ _ _ _)).trans
      (moves_settleFate (e := e) _ _ ?_ rfl)
    rw [reportRelease_calendar, handOn_calendar]
    exact harmed
  · exact .refl

theorem moves_releaseDue (late : Bool) (s : State) : MessageMoves s (releaseDue late s) :=
  moves_foldl (moves_releaseEntry late) _ s

theorem moves_releaseIfRunning (late : Bool) (s : State) : MessageMoves s (releaseIfRunning late s) := by
  unfold releaseIfRunning
  split
  · exact moves_releaseDue late s
  · exact .refl

theorem moves_releaseIfDue (late : Bool) (i : RecordNo) (r : Point) (s : State) :
    MessageMoves s (releaseIfDue late i r s) := by
  unfold releaseIfDue
  split
  · exact moves_releaseEntry late s i
  · exact .refl

theorem moves_resume (s : State) : MessageMoves s (resume s) := by
  by_cases h : s.running
  · rw [resume_running h]
  · rw [resume_held h]
    exact (moves_releaseState s _).trans (moves_releaseDue true _)

/-! ### Time changes, slews and the clock (R4, R10, R18) -/

theorem moves_time (s : State) (t : TimeBase) : MessageMoves s { s with time := t } := moves_of_eq rfl rfl rfl

theorem moves_settleTick (s : State) : MessageMoves s s.settleTick := moves_time s _

theorem moves_changeTime (new : Point) (frac : Nat) (ts : TimeState) (cause : ChangeCause) (s : State) :
    MessageMoves s (changeTime new frac ts cause s) :=
  ((moves_time s _).trans (moves_foldl (fun s p => moves_report p _ _ s) Port.all _)).trans
    (moves_releaseIfRunning true _)

theorem moves_endSlew (cause : SlewCause) (s : State) : MessageMoves s (endSlew cause s) := by
  unfold endSlew
  split
  · exact .refl
  · exact (moves_time s _).trans (moves_reportHolder _ _)

theorem moves_slewEnd (s : State) : MessageMoves s (slewEnd s) := by
  unfold slewEnd
  split
  · split
    · exact moves_endSlew _ s
    · exact .refl
  · exact .refl

theorem moves_pulseEnd (o : OutLine) (s : State) : MessageMoves s (pulseEnd o s) := by
  rw [pulseEnd_eq]
  exact moves_of_eq rfl rfl rfl

theorem moves_takeEnd (n : Nat) (s : State) : MessageMoves s (takeEnd n s) := by
  unfold takeEnd
  split
  · exact moves_slewEnd s
  · exact moves_pulseEnd _ s
  · exact moves_pulseEnd _ s
  · exact moves_pulseEnd _ s
  · exact moves_pulseEnd _ s
  · exact .refl

theorem moves_takeEnds (l : List Nat) (s : State) : MessageMoves s (l.foldl (fun s k => takeEnd k s) s) :=
  moves_foldl (fun s k => moves_takeEnd k s) l s

theorem moves_advance (s : State) : MessageMoves s (advance s) := by
  unfold advance
  dsimp only
  split
  · exact (moves_time s _).trans (moves_changeTime _ _ _ _ _)
  · exact (moves_time s _).trans (moves_releaseIfRunning false _)

/-! ### The loss of the authority (R33, R34) -/

theorem moves_cancelArming (cause : CancelCause) (s : State) : MessageMoves s (cancelArming cause s) := by
  have hdisarmed : MessageMoves s (s.putArming none) := moves_of_eq rfl rfl rfl
  unfold cancelArming
  split
  · exact .refl
  · exact hdisarmed.trans (moves_reportNow _ _ _)

theorem moves_handover (former : Port) (cause : LossCause) (s : State) :
    MessageMoves s (handover former cause s) := by
  have hauthority (a : Authority) : MessageMoves s { s with authority := a } := moves_of_eq rfl rfl rfl
  unfold handover
  split
  · exact .refl
  · exact (hauthority _).trans (moves_reportNow _ _ _)

theorem moves_reportLoss (h : Holder) (cause : LossCause) (s : State) :
    MessageMoves s (reportLoss h cause s) := by
  unfold reportLoss
  split
  · exact moves_reportNow _ _ s
  · exact .refl

theorem moves_loseAuthority (h : Holder) (cause : LossCause) (s : State) :
    MessageMoves s (loseAuthority h cause s) := by
  have hvacated : MessageMoves s { s with authority := { s.authority with holder := none } } :=
    moves_of_eq rfl rfl rfl
  exact (((hvacated.trans (moves_reportLoss h cause _)).trans (moves_cancelArming _ _)).trans
    (moves_resume _)).trans (moves_handover _ _ _)

theorem moves_leaseExpiry (s : State) : MessageMoves s (leaseExpiry s) := by
  unfold leaseExpiry
  split
  · split
    · exact moves_loseAuthority _ _ s
    · exact .refl
  · exact .refl

theorem moves_takeDueEnds (s : State) : MessageMoves s (takeDueEnds s) := by
  have hdrawn : MessageMoves s { s with draws := s.draws + 1 } := moves_of_eq rfl rfl rfl
  unfold takeDueEnds
  split
  · exact ((hdrawn.trans (moves_takeEnds _ _)).trans (moves_leaseExpiry _)).trans (moves_takeEnds _ _)
  · exact moves_takeEnds _ s

/-! ### The end of a session (R169, Table 9-2) -/

theorem moves_endEntry (p : Port) (s : State) (i : RecordNo) : MessageMoves s (endEntry p s i) := by
  unfold endEntry
  split
  · rename_i e harmed
    split
    · exact moves_finishEntry _ harmed rfl
    · exact .refl
  · exact .refl

theorem moves_dropWaiter (p : Port) (s : State) : MessageMoves s (dropWaiter p s) := moves_of_eq rfl rfl rfl

theorem moves_endAuthority (p : Port) (s : State) : MessageMoves s (endAuthority p s) := by
  unfold endAuthority
  split
  · split
    · exact moves_loseAuthority _ _ s
    · exact moves_dropWaiter p s
  · exact moves_dropWaiter p s

/-- The drafts of a port abandoned record by record (R61). -/
theorem moves_endDrafts (p : Port) (s : State) : MessageMoves s (endDrafts p s) := by
  have hone (s : State) (i : RecordNo) :
      MessageMoves s { s with store := s.store.abandonDraftAt p i } := by
    unfold Store.abandonDraftAt
    split
    · rename_i m hdraft
      split
      · exact .single (.abandon s i m hdraft)
      · exact .refl
    · exact .refl
  have hall (l : List RecordNo) (st : Store) :
      MessageMoves { s with store := st } { s with store := l.foldl (Store.abandonDraftAt p) st } := by
    induction l generalizing st with
    | nil => exact .refl
    | cons i l ih => exact (hone { s with store := st } i).trans (ih _)
  exact hall (List.finRange 128) s.store

theorem moves_releaseOf (line : Line) (s : State) : MessageMoves s (releaseOf line s) := by
  cases line with
  | event l =>
    have hcancelled : MessageMoves s (cancelArmingOn l s) := by
      unfold cancelArmingOn
      split
      · split
        · exact moves_cancelArming _ s
        · exact .refl
      · exact .refl
    exact hcancelled.trans (moves_of_eq rfl rfl rfl)
  | output o => exact moves_of_eq rfl rfl rfl

theorem moves_endClaims (p : Port) (s : State) : MessageMoves s (endClaims p s) := by
  refine moves_foldl (fun s line => ?_) _ s
  split
  · exact moves_releaseOf line s
  · exact .refl

theorem moves_removeHeads (p : Port) : ∀ (n : Nat) (s : State), MessageMoves s (removeHeads p n s)
  | 0, _ => .refl
  | n + 1, s => .head (.removeHead s p) (moves_removeHeads p n _)

theorem moves_flush (p : Port) (s : State) : MessageMoves s (flush p s) := moves_removeHeads p _ s

theorem moves_endInbox (p : Port) (s : State) : MessageMoves s (endInbox p s) := by
  refine (moves_flush p s).trans (moves_putInbox ?_)
  rw [flush_eq, PerPort.get_put]
  rfl

theorem moves_endSession (p : Port) (s : State) : MessageMoves s (endSession p s) := by
  have hdeparting : MessageMoves s { s with departing := some p } := moves_of_eq rfl rfl rfl
  have hentries := hdeparting.trans (moves_foldl (moves_endEntry p) s.calendar.armed _)
  have hclaims := ((hentries.trans (moves_endAuthority p _)).trans (moves_endDrafts p _)).trans
    (moves_endClaims p _)
  exact (hclaims.trans (moves_endInbox p _)).trans (moves_of_eq rfl rfl rfl)

end Sys2Proof.Machine

/-! Every command and event is a number of moves on messages, entries and inbox records, so every step keeps
the promises of the Message Store and the reference counts (R39 to R57). -/

namespace Sys2Proof.Machine

/-! ### Commands of the Time Base and the Time Authority -/

theorem moves_loadTime (p : Port) (ps : List Byte) (s : State) : MessageMoves s (loadTime p ps s).state := by
  unfold loadTime
  dsimp only
  split
  · exact .refl
  · rw [okay_state]
    exact (moves_endSlew _ s).trans (moves_changeTime _ _ _ _ _)

theorem moves_stepTime (p : Port) (ps : List Byte) (s : State) : MessageMoves s (stepTime p ps s).state := by
  unfold stepTime
  split
  · exact .refl
  · split
    · exact .refl
    · rw [okay_state]
      exact moves_changeTime _ _ _ _ s

theorem moves_setRate (p : Port) (ps : List Byte) (s : State) : MessageMoves s (setRate p ps s).state := by
  unfold setRate
  split
  · exact moves_time s _
  · exact .refl

theorem moves_startSlew (p : Port) (ps : List Byte) (s : State) : MessageMoves s (startSlew p ps s).state := by
  unfold startSlew
  dsimp only
  split
  · exact .refl
  · split
    · exact .refl
    · exact (moves_endSlew _ s).trans (moves_time _ _)

theorem moves_stopSlew (p : Port) (ps : List Byte) (s : State) : MessageMoves s (stopSlew p ps s).state := by
  unfold stopSlew
  split
  · exact .refl
  · exact moves_time s _

theorem moves_authority (s : State) (a : Authority) : MessageMoves s { s with authority := a } :=
  moves_of_eq rfl rfl rfl

theorem moves_claimAuthority (p : Port) (ps : List Byte) (s : State) :
    MessageMoves s (claimAuthority p ps s).state := by
  unfold claimAuthority
  dsimp only
  split
  · exact .refl
  · split
    · exact moves_authority s _
    · split
      · exact moves_authority s _
      · split
        · exact .refl
        · exact moves_authority s _

theorem moves_asHolder {p : Port} {s : State} {body : Holder → Reply}
    (h : ∀ x, MessageMoves s (body x).state) : MessageMoves s (asHolder p s body).state := by
  unfold asHolder
  split
  · split
    · exact h _
    · exact .refl
  · exact .refl

theorem moves_withdrawClaim (p : Port) (ps : List Byte) (s : State) :
    MessageMoves s (withdrawClaim p ps s).state := by
  unfold withdrawClaim
  split
  · exact .refl
  · exact moves_dropWaiter p s

/-! ### Commands of the Message Store -/

theorem moves_openDraft (p : Port) (ps : List Byte) (s : State) : MessageMoves s (openDraft p ps s).state := by
  unfold openDraft
  split
  · exact .refl
  · rename_i hcount
    split
    · exact .refl
    · rename_i i rest hfree
      exact .single (.openDraft s p _ i rest (Nat.not_le.1 hcount) hfree)

theorem moves_append (p : Port) (ps : List Byte) (s : State) : MessageMoves s (append p ps s).state := by
  unfold append
  dsimp only
  split
  · exact .refl
  · split
    · exact .refl
    · rename_i hlength
      split
      · exact .refl
      · split
        · exact .refl
        · rename_i h _ _ m hown
          split
          · exact .refl
          · rename_i hchecks
            rw [not_not.1 hlength] at hchecks
            exact .single (.append s h.record m _ (Store.content_of_ownDraft hown) hchecks)

theorem moves_abandonDraft (p : Port) (ps : List Byte) (s : State) :
    MessageMoves s (abandonDraft p ps s).state := by
  unfold abandonDraft
  split
  · exact .refl
  · split
    · exact .refl
    · rename_i h _ _ m hown
      exact .single (.abandon s h.record m (Store.content_of_ownDraft hown))

theorem moves_setQuota (p : Port) (ps : List Byte) (s : State) : MessageMoves s (setQuota p ps s).state := by
  unfold setQuota
  dsimp only
  split
  · exact .refl
  · rename_i q _
    split
    · exact .refl
    · rename_i hmax
      split
      · exact .refl
      · rename_i hcharge
        have hset := MessageMove.setQuota s q _ (Nat.not_lt.1 hmax) (Nat.not_lt.1 hcharge)
        exact (Relation.ReflTransGen.single hset).trans (moves_reportNow _ _ _)

/-! ### Commands of the Calendar -/

/-- The message handle of a DELIVER entry that step 8 of Table 4-2 lets through names a message in use. -/
theorem used_of_scheduleObjectCheck {p : Port} {ps : List Byte} {s : State} {a : EntryAction} {j : RecordNo}
    (hcheck : scheduleObjectCheck p ps s = none) (ha : entryActionField ps = some a) (hj : a.names j = true) :
    s.store.records[j].content ≠ .free := by
  unfold entryActionField at ha
  split at ha
  · rename_i hdeliver
    split at ha
    · rename_i ts h _ hh
      cases ha
      obtain rfl : h.record = j := of_decide_eq_true hj
      simp only [scheduleObjectCheck, hdeliver, if_true, hh] at hcheck
      split at hcheck
      · cases hcheck
      · rename_i m hm
        obtain ⟨-, hdraft | ⟨n, hsealed⟩⟩ := Store.named_eq_some.1 hm
        · rw [hdraft]; nofun
        · rw [hsealed]; nofun
    · cases ha
  · split at ha
    · cases ha
      cases hj
    · cases ha

theorem moves_schedule {p : Port} {ps : List Byte} (r : Point) (late : Bool) {s : State}
    (hcheck : scheduleObjectCheck p ps s = none) : MessageMoves s (schedule p ps r late s).state := by
  unfold schedule
  split
  · rename_i i rest action hfree haction
    have hmove := MessageMove.schedule s i rest (scheduledEntry p ps action) r hfree fun j hj =>
      used_of_scheduleObjectCheck hcheck haction hj
    exact .head hmove (moves_releaseIfDue late i r _)
  · exact .refl

theorem moves_scheduleAt (p : Port) (ps : List Byte) (s : State) :
    MessageMoves s (scheduleAt p ps s).state := by
  unfold scheduleAt
  dsimp only
  split
  · exact .refl
  · split
    · exact .refl
    · split
      · exact .refl
      · rename_i hcheck
        split
        · exact .refl
        · exact moves_schedule _ _ hcheck

theorem moves_scheduleAfter (p : Port) (ps : List Byte) (s : State) :
    MessageMoves s (scheduleAfter p ps s).state := by
  unfold scheduleAfter
  dsimp only
  split
  · exact .refl
  · split
    · exact .refl
    · split
      · exact .refl
      · rename_i hcheck
        exact moves_schedule _ _ hcheck

/-- RETIME and CANCEL leave the state alone or act on an entry that stands ARMED. -/
theorem onArmed_cases (p : Port) (h : Handle) (s : State) (body : Entry → Reply) :
    (onArmed p h s body).state = s ∨
      ∃ e, s.calendar.records[h.record].content = .armed e ∧ onArmed p h s body = body e := by
  unfold onArmed
  split
  · exact .inl rfl
  · rename_i e hnamed
    obtain ⟨-, hcontent⟩ := Calendar.named_eq_some.1 hnamed
    split
    · exact .inl rfl
    · split
      · exact .inl rfl
      · rename_i hnot
        rcases hcontent with harmed | ⟨why, hfinished⟩
        · exact .inr ⟨e, harmed, rfl⟩
        · exact absurd hfinished (hnot e why)

theorem moves_onArmed {p : Port} {h : Handle} {s : State} {body : Entry → Reply}
    (hbody : ∀ e, s.calendar.records[h.record].content = .armed e → MessageMoves s (body e).state) :
    MessageMoves s (onArmed p h s body).state := by
  rcases onArmed_cases p h s body with hsame | ⟨e, harmed, hacts⟩
  · rw [hsame]
  · rw [hacts]
    exact hbody e harmed

theorem moves_retime (p : Port) (ps : List Byte) (s : State) : MessageMoves s (retime p ps s).state := by
  unfold retime
  dsimp only
  split
  · exact .refl
  · split
    · exact .refl
    · split
      · exact .refl
      · refine moves_onArmed fun e harmed => ?_
        split
        · exact .refl
        · exact (moves_arm _ harmed rfl).trans (moves_releaseIfDue _ _ _ _)

theorem moves_cancel (p : Port) (ps : List Byte) (s : State) : MessageMoves s (cancel p ps s).state := by
  unfold cancel
  split
  · exact .refl
  · exact moves_onArmed fun e harmed => moves_finishEntry _ harmed rfl

theorem moves_queryEntry (p : Port) (ps : List Byte) (s : State) : MessageMoves s (queryEntry p ps s).state := by
  unfold queryEntry
  split
  · exact .refl
  · split <;> exact .refl

/-! ### Commands of the Delivery Unit -/

theorem moves_fetchHead (p : Port) (ps : List Byte) (s : State) : MessageMoves s (fetchHead p ps s).state := by
  unfold fetchHead
  split <;> exact .refl

theorem moves_readPayload (p : Port) (ps : List Byte) (s : State) :
    MessageMoves s (readPayload p ps s).state := by
  unfold readPayload
  dsimp only
  split
  · exact .refl
  · split
    · exact .refl
    · split
      · exact .refl
      · split <;> exact .refl

theorem moves_discardHead (p : Port) (ps : List Byte) (s : State) :
    MessageMoves s (discardHead p ps s).state := by
  unfold discardHead
  split
  · exact .refl
  · exact .single (.removeHead s p)

theorem moves_setInbox (p : Port) (ps : List Byte) (s : State) : MessageMoves s (setInbox p ps s).state := by
  unfold setInbox
  dsimp only
  split
  · exact moves_putInbox rfl
  · exact .refl

/-! ### Commands on lines, reports and sessions -/

theorem moves_claimLine (p : Port) (ps : List Byte) (s : State) : MessageMoves s (claimLine p ps s).state := by
  have hclaim (line : Line) {granted : Reply} (h : MessageMoves s granted.state) :
      MessageMoves s (claim p line s granted).state := by
    unfold claim
    split
    · exact h
    · split <;> exact .refl
  unfold claimLine
  dsimp only
  split
  · exact .refl
  · split
    · exact .refl
    · exact hclaim _ (moves_of_eq rfl rfl rfl)
  · split
    · exact .refl
    · exact hclaim _ (moves_of_eq rfl rfl rfl)

theorem moves_releaseLine (p : Port) (ps : List Byte) (s : State) :
    MessageMoves s (releaseLine p ps s).state := by
  unfold releaseLine
  split
  · exact .refl
  · split
    · exact .refl
    · exact moves_releaseOf _ s

theorem moves_takeCapture (p : Port) (ps : List Byte) (s : State) :
    MessageMoves s (takeCapture p ps s).state := by
  unfold takeCapture
  split
  · exact .refl
  · dsimp only
    split
    · exact .refl
    · split
      · exact .refl
      · exact moves_of_eq rfl rfl rfl

theorem moves_armAlign (p : Port) (ps : List Byte) (s : State) : MessageMoves s (armAlign p ps s).state := by
  unfold armAlign
  dsimp only
  split
  · split
    · exact .refl
    · exact moves_of_eq rfl rfl rfl
  · exact .refl

theorem moves_disarmAlign (p : Port) (ps : List Byte) (s : State) :
    MessageMoves s (disarmAlign p ps s).state := by
  unfold disarmAlign
  split
  · exact .refl
  · exact moves_of_eq rfl rfl rfl

theorem moves_driveLine (p : Port) (ps : List Byte) (s : State) : MessageMoves s (driveLine p ps s).state := by
  unfold driveLine
  split
  · exact .refl
  · split
    · exact .refl
    · split
      · exact .refl
      · split
        · exact .refl
        · exact moves_of_eq rfl rfl rfl

theorem moves_takeReport (p : Port) (ps : List Byte) (s : State) : MessageMoves s (takeReport p ps s).state := by
  unfold takeReport
  split
  · exact .refl
  · exact moves_of_eq rfl rfl rfl

theorem moves_setReportMask (p : Port) (ps : List Byte) (s : State) :
    MessageMoves s (setReportMask p ps s).state := by
  unfold setReportMask
  dsimp only
  split
  · exact .refl
  · exact moves_of_eq rfl rfl rfl

theorem moves_putPort (s : State) (p : Port) (x : HostPort) : MessageMoves s (s.putPort p x) :=
  moves_of_eq rfl rfl rfl

theorem moves_attach (p : Port) (ps : List Byte) (s : State) : MessageMoves s (attach p ps s).state := by
  unfold attach
  dsimp only
  split
  · exact .refl
  · exact moves_putPort s p _

/-! ### Events -/

theorem moves_alignEdge (l : EvLine) (compensation : Nat) (t : Stamp) (pol : Polarity) (stored : Bool)
    (s : State) : MessageMoves s (alignEdge l compensation t pol stored s) := by
  have hended : MessageMoves s (s.putArming none) := moves_of_eq rfl rfl rfl
  have hstep (a : Arming) : MessageMoves s (stepEdge a compensation t stored s) := by
    unfold stepEdge
    dsimp only
    split
    · exact hended.trans (moves_reportNow _ _ _)
    · exact (hended.trans (moves_changeTime _ _ _ _ _)).trans (moves_reportNow _ _ _)
  unfold alignEdge
  split
  · exact .refl
  · split
    · split
      · exact hstep _
      · exact moves_report _ _ _ s
    · exact .refl

theorem moves_capture (l : EvLine) (owner : Port) (stamp : Stamp) (pol : Polarity) (s : State) :
    MessageMoves s (capture l owner stamp pol s) := by
  have hrecord : MessageMoves s (s.putLine l ((s.events.lines.get l).record stamp pol)) :=
    moves_of_eq rfl rfl rfl
  unfold capture
  dsimp only
  split
  · exact hrecord.trans (moves_report _ _ _ _)
  · exact hrecord

theorem moves_recognizedEdge (l : EvLine) (level : Level) (s : State) :
    MessageMoves s (recognizedEdge l level s) := by
  have hlevel : MessageMoves s (s.putLine l { s.events.lines.get l with level := level }) :=
    moves_of_eq rfl rfl rfl
  unfold recognizedEdge
  dsimp only
  split
  · exact hlevel
  · split
    · exact (hlevel.trans (moves_capture _ _ _ _ _)).trans (moves_alignEdge _ _ _ _ _ _)
    · exact hlevel

theorem moves_refclkAdvance {s t : State} (h : execRefclkAdvance s = .next t) : MessageMoves s t := by
  unfold execRefclkAdvance at h
  split at h <;> cases h
  · exact .refl
  · exact ((moves_settleTick s).trans (moves_takeDueEnds _)).trans (moves_advance _)

theorem moves_commandWrite {p : Port} {x : Transaction} {s t : State} (h : execCommandWrite p x s = .next t) :
    MessageMoves s t := by
  unfold execCommandWrite at h
  split at h
  · split at h <;> cases h <;> exact moves_putPort s p _
  · cases h
    exact moves_putPort s p _

theorem moves_responseRead {p : Port} {x : Transaction} {s t : State} (h : execResponseRead p x s = .next t) :
    MessageMoves s t := by
  unfold execResponseRead at h
  split at h
  · split at h <;> cases h <;> exact moves_putPort s p _
  · cases h
    exact moves_putPort s p _

theorem moves_unknownCommand {p : Port} {s t : State} (h : execUnknownCommand p s = .next t) :
    MessageMoves s t := by
  unfold execUnknownCommand at h
  split at h
  · split at h <;> cases h
    · exact .refl
    · exact (moves_settleTick s).trans (moves_putPort _ _ _)
  · cases h
    exact .refl

theorem moves_edgeRecognized {l : EvLine} {level : Level} {held : Nat} {s t : State}
    (h : execEdgeRecognized l level held s = .next t) : MessageMoves s t := by
  unfold execEdgeRecognized at h
  split at h <;> cases h
  · exact (moves_settleTick s).trans (moves_recognizedEdge _ _ _)
  · exact .refl

theorem moves_portReset {p : Port} {s t : State} (h : execPortReset p s = .next t) : MessageMoves s t := by
  have hreset : MessageMoves s (assertPortReset p s.settleTick) :=
    (moves_settleTick s).trans (moves_putPort _ _ _)
  unfold execPortReset at h
  dsimp only at h
  split at h <;> cases h
  · exact hreset.trans (moves_endSession p _)
  · exact hreset

theorem moves_resetNegation {pins : PerEv Level} {s t : State} (h : execResetNegation pins s = .next t) :
    MessageMoves s t := by
  unfold execResetNegation at h
  split at h <;> cases h
  · exact moves_of_eq rfl rfl rfl
  · exact .refl

/-! ### The step -/

theorem moves_execution {row : CommandRow} {body : Port → List Byte → State → Reply} {p : Port} {s t : State}
    (h : execution row body p s = .next t) (hbody : ∀ ps u, MessageMoves u (body p ps u).state) :
    MessageMoves s t := by
  rcases execution_cases h with ⟨c, d, o, -, -, rfl⟩ | ⟨-, rfl⟩
  · have hgate : MessageMoves s.settleTick (gate row p c.params (body p c.params) s.settleTick).state := by
      rcases gate_cases row p c.params (body p c.params) s.settleTick with ⟨r, hr⟩ | ⟨hf, -, -⟩
      · rw [hr]
        exact .refl
      · rw [hf]
        exact hbody _ _
    exact ((moves_settleTick s).trans hgate).trans (moves_putPort _ _ _)
  · exact .refl

/-- Every command and event but DEVICE_RESET is a number of moves. -/
theorem moves_exec {i : Instr} {s t : State} (h : exec i s = .next t) (hi : i ≠ .deviceReset) :
    MessageMoves s t := by
  cases i with
  | commandWrite p x => exact moves_commandWrite h
  | responseRead p x => exact moves_responseRead h
  | unknownCommand p => exact moves_unknownCommand h
  | readTime p => exact moves_execution h fun _ _ => .refl
  | loadTime p => exact moves_execution h (moves_loadTime p)
  | stepTime p => exact moves_execution h (moves_stepTime p)
  | setRate p => exact moves_execution h (moves_setRate p)
  | startSlew p => exact moves_execution h (moves_startSlew p)
  | stopSlew p => exact moves_execution h (moves_stopSlew p)
  | refclkAdvance => exact moves_refclkAdvance h
  | elapsedTick => exact Host.Outcome.next.inj h ▸ moves_settleTick s
  | slewEnd => exact Host.Outcome.next.inj h ▸ (moves_settleTick s).trans (moves_slewEnd _)
  | claimAuthority p => exact moves_execution h (moves_claimAuthority p)
  | renewAuthority p => exact moves_execution h fun _ u => moves_asHolder fun _ => moves_authority u _
  | releaseAuthority p => exact moves_execution h fun _ u => moves_asHolder fun x => moves_loseAuthority x _ u
  | withdrawClaim p => exact moves_execution h (moves_withdrawClaim p)
  | leaseExpiry => exact Host.Outcome.next.inj h ▸ (moves_settleTick s).trans (moves_leaseExpiry _)
  | openDraft p => exact moves_execution h (moves_openDraft p)
  | append p => exact moves_execution h (moves_append p)
  | abandonDraft p => exact moves_execution h (moves_abandonDraft p)
  | setQuota p => exact moves_execution h (moves_setQuota p)
  | scheduleAt p => exact moves_execution h (moves_scheduleAt p)
  | scheduleAfter p => exact moves_execution h (moves_scheduleAfter p)
  | retime p => exact moves_execution h (moves_retime p)
  | cancel p => exact moves_execution h (moves_cancel p)
  | queryEntry p => exact moves_execution h (moves_queryEntry p)
  | holdReleases p => exact moves_execution h fun _ u => moves_releaseState u _
  | resumeReleases p => exact moves_execution h fun _ u => moves_resume u
  | fetchHead p => exact moves_execution h (moves_fetchHead p)
  | readPayload p => exact moves_execution h (moves_readPayload p)
  | discardHead p => exact moves_execution h (moves_discardHead p)
  | flushInbox p => exact moves_execution h fun _ u => moves_flush p u
  | setInbox p => exact moves_execution h (moves_setInbox p)
  | claimLine p => exact moves_execution h (moves_claimLine p)
  | releaseLine p => exact moves_execution h (moves_releaseLine p)
  | queryLines p => exact moves_execution h fun _ _ => .refl
  | takeCapture p => exact moves_execution h (moves_takeCapture p)
  | armAlign p => exact moves_execution h (moves_armAlign p)
  | disarmAlign p => exact moves_execution h (moves_disarmAlign p)
  | edgeRecognized l level held => exact moves_edgeRecognized h
  | driveLine p => exact moves_execution h (moves_driveLine p)
  | pulseEnd o => exact Host.Outcome.next.inj h ▸ (moves_settleTick s).trans (moves_pulseEnd o _)
  | takeReport p => exact moves_execution h (moves_takeReport p)
  | setReportMask p => exact moves_execution h (moves_setReportMask p)
  | attach p => exact moves_execution h (moves_attach p)
  | detach p => exact moves_execution h fun _ u => moves_endSession p u
  | status p => exact moves_execution h fun _ _ => .refl
  | portReset p => exact moves_portReset h
  | deviceReset => exact absurd rfl hi
  | resetNegation pins => exact moves_resetNegation h
  | portResetNegation p => exact Host.Outcome.next.inj h ▸ moves_putPort s p _

/-- A step is a number of moves, or device reset. -/
theorem moves_step {s t : State} (h : step s = .next t) :
    MessageMoves s t ∨ ∃ u : State, t = deviceReset u := by
  unfold step at h
  split at h
  · cases h
    exact .inl .refl
  · rename_i i rest _
    have hrest : MessageMoves s { s with pending := rest } := moves_of_eq rfl rfl rfl
    by_cases hi : i = .deviceReset
    · subst hi
      exact .inr ⟨_, (Host.Outcome.next.inj h).symm⟩
    · exact .inl (hrest.trans (moves_exec h hi))

/-- Settles O56: a step is a number of moves, none of which breaks a promise of the Message Store, or device
reset. -/
theorem storeStaysSound : Obligations.StoreStaysSound := by
  intro s t hsound hwf h
  rcases moves_step h with hmoves | ⟨u, rfl⟩
  · exact hmoves.keeps (P := fun s => StoreKept s.store) (fun _ _ => MessageMove.storeKept) ⟨hsound, hwf⟩
  · exact ⟨storeSound_reset, reset_pool_wf⟩

/-- After device reset no message is SEALED and nothing names one. -/
theorem referencesSound_deviceReset (s : State) : ReferencesSound (deviceReset s) := by
  obtain ⟨-, hcomplete, -⟩ := sessionsSound_deviceReset s
  obtain ⟨-, -, hfree, -⟩ := storeSound_reset
  refine ⟨hcomplete, hfree, referencesExact_iff.2 fun i => ?_⟩
  have hcontent : (deviceReset s).store.records[i].content = .free := by
    change Store.reset.records[i].content = .free
    simp [Store.reset]
  have hentries : Calendar.reset.namingCount i = 0 := by
    simp [Calendar.namingCount, Calendar.reset, EntryState.names]
  have hcalendar : (deviceReset s).calendar = .reset := rfl
  have hinboxes : inboxNamingCount (deviceReset s).inboxes i = 0 := rfl
  rw [hcontent, MessageState.counted_free, State.namingCount_eq, hcalendar, hentries, hinboxes]

/-- Settles O58: a step is a number of moves, each of which takes or drops a reference with each naming that it
adds or removes, or device reset. -/
theorem referencesStayExact : Obligations.ReferencesStayExact := by
  intro s t hs h
  rcases moves_step h with hmoves | ⟨u, rfl⟩
  · exact hmoves.keeps (fun _ _ => MessageMove.referencesSound) hs
  · exact referencesSound_deviceReset u

end Sys2Proof.Machine

/-! The commands of the Message Store (R44 to R47, R58, R59), and the state after device reset. -/

namespace Sys2Proof.Machine

open Claims

/-! ### OPEN_DRAFT (R44) -/

theorem openDraft_limit {p : Port} {ps : List Byte} {s : State} (h : 2 ≤ s.store.draftCount p) :
    openDraft p ps s = refuse s .draftLimit := if_pos h

theorem openDraft_noRecord {p : Port} {ps : List Byte} {s : State} (h : s.store.draftCount p < 2)
    (hfree : s.store.freeRecords = []) : openDraft p ps s = refuse s .noRecord := by
  unfold openDraft
  rw [if_neg (Nat.not_le.2 h), hfree]

theorem openDraft_opened {p : Port} {ps : List Byte} {s : State} {i : RecordNo} {rest : List RecordNo}
    (h : s.store.draftCount p < 2) (hfree : s.store.freeRecords = i :: rest) :
    openDraft p ps s =
      okay { s with store := s.store.openDraft p (BitVec.ofNat 16 (field ps 0 2)) i rest }
        (Handle.bytes ⟨i, s.store.records[i].gen + 1⟩) := by
  unfold openDraft
  rw [if_neg (Nat.not_le.2 h), hfree]

/-- Settles O33: the draft count decides first, then the free-record queue, and its head is the draft. -/
theorem openDraftTakesRecord : Obligations.OpenDraftTakesRecord := by
  intro p c d o s h u
  have hexec : exec (.openDraft p) s = .next (complete p c.tag d o (openDraft p c.params u)) :=
    execution_of_executes h
  refine ⟨fun hlimit => ?_, fun hcount => ⟨fun hfree => ?_, fun i rest hfree => ?_⟩⟩
  · rw [hexec, openDraft_limit hlimit]
    rfl
  · rw [hexec, openDraft_noRecord hcount hfree]
    rfl
  · rw [hexec, openDraft_opened hcount hfree]
    rfl

/-! ### The draft that a handle names (Table 3-3, steps 3 to 5) -/

theorem Store.named_eq_none {st : Store} {h : Handle} (hstale : st.records[h.record].content = .free ∨
    st.records[h.record].gen ≠ h.gen) : st.named h = none := by
  unfold Store.named
  split
  · rename_i hgen
    rw [hstale.resolve_right (not_not.2 hgen)]
    rfl
  · rfl

section

variable {st : Store} {p : Port} {h : Handle} {m : Message}

theorem Store.ownDraft_stale (hstale : st.records[h.record].content = .free ∨
    st.records[h.record].gen ≠ h.gen) : st.ownDraft p h = .error .staleHandle := by
  unfold Store.ownDraft
  rw [Store.named_eq_none hstale]

theorem Store.ownDraft_notOwner (hgen : st.records[h.record].gen = h.gen)
    (hm : st.records[h.record].content = .draft m ∨ ∃ k, st.records[h.record].content = .sealed m k)
    (howner : m.sender ≠ p) : st.ownDraft p h = .error .notOwner := by
  unfold Store.ownDraft
  rw [Store.named_eq_some.2 ⟨hgen, hm⟩]
  exact if_pos howner

theorem Store.ownDraft_notDraft {k : Nat} (hgen : st.records[h.record].gen = h.gen)
    (hm : st.records[h.record].content = .sealed m k) (howner : m.sender = p) :
    st.ownDraft p h = .error .notDraft := by
  unfold Store.ownDraft
  rw [Store.named_eq_some.2 ⟨hgen, .inr ⟨k, hm⟩⟩, hm]
  exact if_neg (not_not.2 howner)

theorem Store.ownDraft_draft (hgen : st.records[h.record].gen = h.gen)
    (hm : st.records[h.record].content = .draft m) (howner : m.sender = p) : st.ownDraft p h = .ok m := by
  unfold Store.ownDraft
  rw [Store.named_eq_some.2 ⟨hgen, .inl hm⟩, hm]
  exact if_neg (not_not.2 howner)

end

/-- The handle that a parameter block begins with. -/
theorem handleField_of_names {c : Command} {i : RecordNo} (h : Names c i) :
    handleField c.params 0 = some ⟨i, byteField c.params 1⟩ := handleField_eq_some.2 ⟨h, rfl⟩

/-! ### APPEND (R45, R46) -/

theorem field_one (ps : List Byte) (offset : Nat) : field ps offset 1 = (byteField ps offset).toNat := by
  unfold field byteField natOfBytes
  rw [List.getD_eq_getElem?_getD]
  cases h : ps.drop offset with
  | nil =>
    rw [List.getElem?_eq_none (List.drop_eq_nil_iff.1 h)]
    rfl
  | cons b rest =>
    have hget : ps[offset]? = some b := by rw [← List.head?_drop, h]; rfl
    rw [hget]
    simp

section

variable {p : Port} {ps : List Byte} {s : State} {h : Handle} {m : Message} {r : Result}

/-- The checks of APPEND on its data bytes passed. -/
abbrev DataGiven (ps : List Byte) : Prop :=
  (1 ≤ field ps 2 1 ∧ field ps 2 1 ≤ 32) ∧ field ps 2 1 = (ps.drop 3).length

theorem append_range (hn : field ps 2 1 < 1 ∨ 32 < field ps 2 1) : append p ps s = refuse s .range := if_pos hn

theorem append_badParam (hlow : 1 ≤ field ps 2 1) (hhigh : field ps 2 1 ≤ 32)
    (hn : field ps 2 1 ≠ (ps.drop 3).length) : append p ps s = refuse s .badParam := by
  unfold append
  dsimp only
  rw [if_neg (by omega), if_pos hn]

theorem append_handleRange (hdata : DataGiven ps) (hh : handleField ps 0 = none) :
    append p ps s = refuse s .range := by
  obtain ⟨⟨hlow, hhigh⟩, hlength⟩ := hdata
  unfold append
  dsimp only
  rw [if_neg (by omega), if_neg (not_not.2 hlength), hh]

theorem append_notOwn (hdata : DataGiven ps) (hh : handleField ps 0 = some h)
    (hown : s.store.ownDraft p h = .error r) : append p ps s = refuse s r := by
  obtain ⟨⟨hlow, hhigh⟩, hlength⟩ := hdata
  unfold append
  dsimp only
  rw [if_neg (by omega), if_neg (not_not.2 hlength)]
  simp only [hh, hown]

theorem append_checked (hdata : DataGiven ps) (hh : handleField ps 0 = some h)
    (hown : s.store.ownDraft p h = .ok m) (hchecks : s.store.appendChecks m (field ps 2 1) = some r) :
    append p ps s = refuse s r := by
  obtain ⟨⟨hlow, hhigh⟩, hlength⟩ := hdata
  unfold append
  dsimp only
  rw [if_neg (by omega), if_neg (not_not.2 hlength)]
  simp only [hh, hown, hchecks]

theorem append_written (hdata : DataGiven ps) (hh : handleField ps 0 = some h)
    (hown : s.store.ownDraft p h = .ok m) (hchecks : s.store.appendChecks m (field ps 2 1) = none) :
    append p ps s = okay { s with store := s.store.append h.record m (ps.drop 3) }
      (be 2 (m.length + field ps 2 1) ++ be 2 ((s.store.append h.record m (ps.drop 3)).charge.get p)) := by
  obtain ⟨⟨hlow, hhigh⟩, hlength⟩ := hdata
  unfold append
  dsimp only
  rw [if_neg (by omega), if_neg (not_not.2 hlength)]
  simp only [hh, hown, hchecks]

end

/-! Steps 6 to 8 of Table 3-3, each the first to fail. -/

section

variable {st : Store} {m : Message} {n : Nat}

theorem Store.appendChecks_tooLong (h : 1024 < m.length + n) : st.appendChecks m n = some .tooLong := by
  unfold Store.appendChecks
  dsimp only
  rw [firstFailing_cons, if_pos (decide_eq_true h)]

theorem Store.appendChecks_overQuota (hlength : m.length + n ≤ 1024) (hneed : newBlocks m.length n ≠ 0)
    (h : st.quota.get m.sender < st.charge.get m.sender + newBlocks m.length n) :
    st.appendChecks m n = some .overQuota := by
  unfold Store.appendChecks
  dsimp only
  rw [firstFailing_cons, decide_eq_false (Nat.not_lt.2 hlength), firstFailing_cons, decide_eq_true ⟨hneed, h⟩]
  rfl

theorem Store.appendChecks_noBlocks (hlength : m.length + n ≤ 1024)
    (hquota : st.charge.get m.sender + newBlocks m.length n ≤ st.quota.get m.sender)
    (h : st.freeBlocks.length < newBlocks m.length n) : st.appendChecks m n = some .noBlocks := by
  unfold Store.appendChecks
  dsimp only
  rw [firstFailing_cons, decide_eq_false (Nat.not_lt.2 hlength), firstFailing_cons,
    decide_eq_false (fun hover => Nat.not_lt.2 hquota hover.2), firstFailing_cons, decide_eq_true h]
  rfl

end

theorem exec_append {p : Port} {c : Command} {d o : Bool} {s : State} (h : Executes Row.append p c d o s)
    (hp : s.time.periods < 100) :
    exec (.append p) s = .next (complete p c.tag d o (append p c.params s)) :=
  execution_of_executes_settled h hp

/-- Settles O34: Table 3-3 step by step, each refusal where the steps before it pass. -/
theorem appendRefusedInOrder : Obligations.AppendRefusedInOrder := by
  intro p c d o s h hp n refused
  have refused_of {r : Result} (hr : append p c.params s = refuse s r) : refused r := by
    change exec _ _ = _
    rw [exec_append h hp, hr]
    rfl
  have hn : field c.params 2 1 = n := field_one c.params 2
  refine ⟨fun hbad => refused_of (append_range (by rwa [hn])), fun hlow hhigh hlength => ?_,
    fun hlow hhigh hlength => ?_⟩
  · rw [← hn] at hlow hhigh hlength
    exact refused_of (append_badParam hlow hhigh (by rwa [List.length_drop]))
  have hdata : DataGiven c.params := ⟨⟨by rwa [hn], by rwa [hn]⟩, by rwa [hn, List.length_drop]⟩
  refine ⟨fun hrange => refused_of (append_handleRange hdata (handleField_eq_none.2 hrange)), fun i hi => ?_⟩
  have hhandle := handleField_of_names hi
  have notOwn {r : Result} (hr : s.store.ownDraft p ⟨i, byteField c.params 1⟩ = .error r) : refused r :=
    refused_of (append_notOwn hdata hhandle hr)
  refine ⟨fun hstale => notOwn (Store.ownDraft_stale hstale), fun hgen m =>
    ⟨fun hm howner => notOwn (Store.ownDraft_notOwner hgen hm howner),
      fun howner k hm => notOwn (Store.ownDraft_notDraft hgen hm howner), fun howner hm => ?_⟩⟩
  intro need
  have hown := Store.ownDraft_draft (h := ⟨i, byteField c.params 1⟩) hgen hm howner
  have checked {r : Result} (hr : s.store.appendChecks m n = some r) : refused r :=
    refused_of (append_checked hdata hhandle hown (by rwa [hn]))
  have hneed : newBlocks m.length n = need := rfl
  subst howner
  refine ⟨fun hlong => checked (Store.appendChecks_tooLong hlong), fun hlong hone hquota => ?_,
    fun hlong hone hquota hfree => ?_⟩
  · exact checked (Store.appendChecks_overQuota hlong (by omega) (by rwa [hneed, hone]))
  · refine checked (Store.appendChecks_noBlocks hlong (by rwa [hneed, hone]) ?_)
    rw [hneed, hone, hfree]
    exact Nat.one_pos

/-! The bytes of a payload: positions lie apart, and each written byte reads back (R40, R46). -/

theorem payloadAddress_of_lt {chain : List BlockNo} {i : Nat} (h : i / 32 < chain.length) :
    payloadAddress chain i = chain[i / 32].val * 32 + i % 32 := by
  have hblock : chain[i / blockBytes]? = some chain[i / 32] := List.getElem?_eq_getElem h
  unfold payloadAddress
  rw [hblock]
  rfl

/-- Positions within a chain without repetition have addresses of their own. -/
theorem payloadAddress_inj {chain : List BlockNo} {i j : Nat} (hnodup : chain.Nodup)
    (hi : i < 32 * chain.length) (hj : j < 32 * chain.length)
    (h : payloadAddress chain i = payloadAddress chain j) : i = j := by
  have hi' : i / 32 < chain.length := by omega
  have hj' : j / 32 < chain.length := by omega
  rw [payloadAddress_of_lt hi', payloadAddress_of_lt hj'] at h
  have hblock : chain[i / 32] = chain[j / 32] := Fin.ext (by omega)
  have hindex := (hnodup.getElem_inj_iff).1 hblock
  omega

theorem readByte_writePayloadBytes_inside {chain : List BlockNo} (hnodup : chain.Nodup) {pool : List Host.Cell}
    {offset : Nat} {data : List Byte} (hwf : Memory.wf pool = true)
    (hroom : offset + data.length ≤ 32 * chain.length) {k : Nat} (hk : k < data.length) :
    readByte (writePayloadBytes chain pool offset data) (payloadAddress chain (offset + k)) = data[k] := by
  induction data generalizing pool offset k with
  | nil => cases hk
  | cons b rest ih =>
    rw [List.length_cons] at hroom hk
    have hwf' := writeByte_wf (payloadAddress chain offset) b hwf
    rw [writePayloadBytes]
    cases k with
    | zero =>
      have hapart (k : Nat) (hk : k < rest.length) :
          payloadAddress chain offset ≠ payloadAddress chain (offset + 1 + k) := fun heq => by
        have := payloadAddress_inj hnodup (by omega) (by omega) heq
        omega
      change readByte _ (payloadAddress chain offset) = b
      rw [readByte_writePayloadBytes_outside chain _ _ _ hwf' hapart, readByte_writeByte _ _ _ hwf, if_pos rfl]
    | succ k =>
      rw [show offset + (k + 1) = offset + 1 + k by omega]
      exact ih hwf' (by omega) (by omega)

/-- No block stands in a chain twice (R39). -/
theorem chain_nodup {st : Store} (h : BlocksSound st) (i : RecordNo) : st.records[i].content.chain.Nodup := by
  have hall := (List.nodup_append.1 (h.nodup_iff.2 (List.nodup_finRange 512))).2.1
  have hchains := ((toList_perm st.records i).flatMap_right fun r => r.content.chain).nodup_iff.1 hall
  exact (List.nodup_append.1 hchains).1

theorem le_blocksFor (length : Nat) : length ≤ 32 * blocksFor length := by
  unfold blocksFor blockBytes
  omega

/-- The chain and the length that an append leaves in a sound store: no block twice, and room for the payload. -/
theorem append_chain {st : Store} {i : RecordNo} {m : Message} {data : List Byte} (hs : StoreSound st)
    (h : st.records[i].content = .draft m) (hchecks : st.appendChecks m data.length = none) :
    (m.chain ++ st.freeBlocks.take (newBlocks m.length data.length)).Nodup ∧
      m.length + data.length ≤
        32 * (m.chain ++ st.freeBlocks.take (newBlocks m.length data.length)).length := by
  obtain ⟨hblocks, hchains, -⟩ := storeSound_append hs h hchecks
  have hcontent : (st.append i m data).records[i].content = .draft { m with
      length := m.length + data.length
      chain := m.chain ++ st.freeBlocks.take (newBlocks m.length data.length) } := by
    rw [Store.append_eq]
    change ((st.putRecord i _).records[i]).content = _
    rw [Store.putRecord_get, if_pos rfl]
  have hnodup := chain_nodup hblocks i
  have hlength := (hchains i _ (by rw [hcontent]; rfl)).2
  rw [hcontent] at hnodup
  refine ⟨hnodup, ?_⟩
  rw [hlength]
  exact le_blocksFor _

/-- Settles O35: the checks pass, and in a sound store the chain's positions have addresses of their own, so the
bytes written read back and no other changes. -/
theorem appendWritesPayload : Obligations.AppendWritesPayload := by
  intro p c d o s i m n need h hp hsound hwf hlow hhigh hlength hi hgen hm howner hlong hneed
  subst howner
  have hn : field c.params 2 1 = n := field_one c.params 2
  have hdrop : (c.params.drop 3).length = n := by rw [List.length_drop, ← hlength]
  have hdata : DataGiven c.params := ⟨⟨by rwa [hn], by rwa [hn]⟩, by rw [hn, hdrop]⟩
  have hown := Store.ownDraft_draft (p := m.sender) (h := ⟨i, byteField c.params 1⟩) hgen hm rfl
  have hchecks : s.store.appendChecks m n = none := by
    refine Store.appendChecks_eq_none.2 ⟨hlong, fun hne => (hneed hne).1, ?_⟩
    by_cases hzero : need = 0
    · exact hzero.le.trans (Nat.zero_le _)
    · exact (hneed hzero).2
  have hwritten := append_written hdata (handleField_of_names hi) hown (by rwa [hn])
  obtain ⟨hnodup, hroom⟩ := append_chain (data := c.params.drop 3) hsound hm (by rwa [hdrop])
  rw [hdrop] at hnodup hroom
  refine ⟨writePayloadBytes (m.chain ++ s.store.freeBlocks.take need) s.store.pool m.length (c.params.drop 3),
    ?_, fun k hk => ?_, fun a ha => ?_⟩
  · rw [exec_append h hp, hwritten, hn, Store.append_eq, hdrop, PerPort.get_put]
    rfl
  · have hread := readByte_writePayloadBytes_inside hnodup hwf (by rwa [hdrop]) (k := k) (by rwa [hdrop])
    rw [List.getElem_drop] at hread
    refine hread.trans ?_
    unfold byteField
    rw [List.getD_eq_getElem]
  · exact readByte_writePayloadBytes_outside _ _ _ a hwf (by rwa [hdrop])

/-! ### ABANDON_DRAFT (R47) -/

theorem abandonDraft_range {p : Port} {ps : List Byte} {s : State} (hh : handleField ps 0 = none) :
    abandonDraft p ps s = refuse s .range := by
  unfold abandonDraft
  rw [hh]

theorem abandonDraft_notOwn {p : Port} {ps : List Byte} {s : State} {h : Handle} {r : Result}
    (hh : handleField ps 0 = some h) (hown : s.store.ownDraft p h = .error r) :
    abandonDraft p ps s = refuse s r := by
  unfold abandonDraft
  simp only [hh, hown]

theorem abandonDraft_freed {p : Port} {ps : List Byte} {s : State} {h : Handle} {m : Message}
    (hh : handleField ps 0 = some h) (hown : s.store.ownDraft p h = .ok m) :
    abandonDraft p ps s =
      okay { s with store := s.store.release h.record m } [BitVec.ofNat 8 m.chain.length] := by
  unfold abandonDraft
  simp only [hh, hown]

/-- Settles O36: steps 3 to 5 of Table 3-3, then the release of the record. -/
theorem abandonDraftFreesRecord : Obligations.AbandonDraftFreesRecord := by
  intro p c d o s h hp refused
  have hexec : exec (.abandonDraft p) s = .next (complete p c.tag d o (abandonDraft p c.params s)) :=
    execution_of_executes_settled h hp
  have refused_of {r : Result} (hr : abandonDraft p c.params s = refuse s r) : refused r := by
    change exec _ _ = _
    rw [hexec, hr]
    rfl
  refine ⟨fun hrange => refused_of (abandonDraft_range (handleField_eq_none.2 hrange)), fun i hi => ?_⟩
  have hhandle := handleField_of_names hi
  have notOwn {r : Result} (hr : s.store.ownDraft p ⟨i, byteField c.params 1⟩ = .error r) : refused r :=
    refused_of (abandonDraft_notOwn hhandle hr)
  refine ⟨fun hstale => notOwn (Store.ownDraft_stale hstale), fun hgen m =>
    ⟨fun hm howner => notOwn (Store.ownDraft_notOwner hgen hm howner),
      fun howner k hm => notOwn (Store.ownDraft_notDraft hgen hm howner), fun howner hm => ?_⟩⟩
  have hown := Store.ownDraft_draft (h := ⟨i, byteField c.params 1⟩) hgen hm howner
  rw [hexec, abandonDraft_freed hhandle hown, ← hgen, ← howner]
  rfl

/-! ### SET_QUOTA (R58, R59) -/

theorem portOf_eq_none {b : Byte} (h : 3 < b.toNat) : portOf b = none := by
  unfold portOf
  split <;> first | omega | rfl

theorem portOf_code (q : Port) : portOf q.code = some q := by
  cases q <;> rfl

section

variable {p q : Port} {ps : List Byte} {s : State}

theorem setQuota_noPort (h : portOf (byteField ps 0) = none) : setQuota p ps s = refuse s .badParam := by
  unfold setQuota
  simp only [h]

theorem setQuota_range (h : portOf (byteField ps 0) = some q) (hmax : 512 < field ps 1 2) :
    setQuota p ps s = refuse s .range := by
  unfold setQuota
  simp only [h, if_pos hmax]

theorem setQuota_belowCharge (h : portOf (byteField ps 0) = some q) (hmax : field ps 1 2 ≤ 512)
    (hcharge : field ps 1 2 < s.store.charge.get q) : setQuota p ps s = refuse s .quotaBelowCharge := by
  unfold setQuota
  simp only [h, if_neg (Nat.not_lt.2 hmax), if_pos hcharge]

theorem setQuota_set (h : portOf (byteField ps 0) = some q) (hmax : field ps 1 2 ≤ 512)
    (hcharge : s.store.charge.get q ≤ field ps 1 2) :
    setQuota p ps s =
      okay (reportNow q (.quotaChanged (s.store.quota.get q) (field ps 1 2) (s.store.charge.get q) p)
          { s with store := { s.store with quota := s.store.quota.put q (field ps 1 2) } })
        (be 2 (s.store.quota.get q) ++ be 2 (s.store.charge.get q)) := by
  unfold setQuota
  simp only [h, if_neg (Nat.not_lt.2 hmax), if_neg (Nat.not_lt.2 hcharge)]

end

/-- Settles O37: port, range and charge checked in this order, then the quota set and reported. -/
theorem setQuotaChangesQuota : Obligations.SetQuotaChangesQuota := by
  intro p c d o s h u value refused
  have hexec : exec (.setQuota p) s = .next (complete p c.tag d o (setQuota p c.params u)) :=
    execution_of_executes h
  have refused_of {r : Result} (hr : setQuota p c.params u = refuse u r) : refused r := by
    change exec _ _ = _
    rw [hexec, hr]
    rfl
  refine ⟨fun hport => refused_of (setQuota_noPort (portOf_eq_none hport)), fun q hq => ?_⟩
  have hport : portOf (byteField c.params 0) = some q := hq ▸ portOf_code q
  refine ⟨fun hmax => refused_of (setQuota_range hport hmax),
    fun hmax hcharge => refused_of (setQuota_belowCharge hport hmax hcharge), fun hmax hcharge => ?_⟩
  rw [hexec, setQuota_set hport hmax hcharge]
  rfl

/-! ### Device reset -/

/-- Settles O53: the state after reset is what device reset leaves of it. -/
theorem resetIsSound : Obligations.ResetIsSound := by
  have hreset : State.reset = deviceReset State.reset := rfl
  have hsessions := sessionsSound_deviceReset State.reset
  have hnoEnd := noEndPassed_deviceReset State.reset
  obtain ⟨-, hcomplete, -⟩ := id hsessions
  obtain ⟨htime, -⟩ := id hnoEnd
  refine ⟨hnoEnd, hsessions, storeSound_reset, reset_pool_wf,
    ⟨htime, ⟨hcomplete, List.Pairwise.nil, nofun⟩, fun _ => rfl⟩, referencesSound_deviceReset State.reset,
    ⟨fun p _ => ?_, fun l _ => ?_⟩, fun o _ => ?_, fun _ => hreset, fun p _ hp => ?_⟩
  · cases p <;> decide
  · cases l <;> decide
  · cases o <;> exact ⟨fun _ => rfl, nofun⟩
  · cases p <;> cases hp

end Sys2Proof.Machine

/-! Catch-up (R75): the due times that an occurrence passes over, and the release time that a re-armed entry
takes. -/

namespace Sys2Proof.Machine

/-! ### Points in their order (R1) -/

theorem Point.atOrBefore_trans {a b c : Point} (h : a.atOrBefore b) (k : b.atOrBefore c) :
    a.atOrBefore c := by
  unfold Point.atOrBefore at *
  omega

theorem Point.atOrBefore_of_not {a b : Point} (h : ¬ a.atOrBefore b) : b.atOrBefore a := by
  unfold Point.atOrBefore at *
  omega

theorem Point.toNs_ofNs (n : Nat) : (Point.ofNs n).toNs = n := by
  unfold Point.ofNs Point.toNs nsPerSecond
  dsimp only
  omega

/-! ### The outcome of catch-up -/

section

variable {e : Entry} {t p : Point} {c : Nat}

theorem catchUp_once (h : e.period = none) : catchUp e t = ⟨0, e.remaining, .finish .completed⟩ := by
  unfold catchUp
  rw [h]

theorem catchUp_unbounded (h : e.period = some p) (hc : e.remaining = none) :
    catchUp e t = ⟨dueTimes e.release t p.toNs, none,
      nextFate e.release (dueTimes e.release t p.toNs) p.toNs⟩ := by
  unfold catchUp
  simp only [h, hc]

theorem catchUp_bounded (h : e.period = some p) (hc : e.remaining = some c) :
    catchUp e t = ⟨min (dueTimes e.release t p.toNs) (c - 1),
      some (c - 1 - min (dueTimes e.release t p.toNs) (c - 1)),
      if c - 1 - min (dueTimes e.release t p.toNs) (c - 1) = 0 then .finish .completed
      else nextFate e.release (dueTimes e.release t p.toNs) p.toNs⟩ := by
  unfold catchUp
  simp only [h, hc]

end

/-- The count of due times is the one number with its last due time at or before the present and the next one
after it. -/
theorem dueTimes_eq {r t : Point} {period n : Nat} (hlow : r.toNs + n * period ≤ t.toNs)
    (hhigh : t.toNs < r.toNs + (n + 1) * period) : dueTimes r t period = n := by
  refine Nat.div_eq_of_lt_le ?_ ?_
  · omega
  · omega

/-- The due time after those counted lies after the present. -/
theorem lt_next_dueTime (r t : Point) {period : Nat} (hp : 0 < period) :
    t.toNs < r.toNs + (dueTimes r t period + 1) * period := by
  have hlt : t.toNs - r.toNs < period * (dueTimes r t period + 1) := Nat.lt_mul_div_succ _ hp
  rw [Nat.mul_comm] at hlt
  omega

/-- A periodic entry goes on at its next due time, or ends at the end of the scale. -/
theorem nextFate_eq (r : Point) (n period : Nat) :
    nextFate r n period =
      if 4294967296000000000 ≤ r.toNs + (n + 1) * period then .finish .outOfRange
      else .rearm (.ofNs (r.toNs + (n + 1) * period)) :=
  have hmax : maxPoint.toNs = 4294967295999999999 := rfl
  if_congr (by omega) rfl rfl

/-- Settles O42: the count of due times is `n`, and catch-up is a function of it. -/
theorem catchUpCountsDueTimes : Obligations.CatchUpCountsDueTimes := by
  intro e t
  refine ⟨catchUp_once, ?_⟩
  intro p n hp _ hlow hhigh next onward
  have hn : dueTimes e.release t p.toNs = n := dueTimes_eq hlow hhigh
  have honward : nextFate e.release n p.toNs = onward := nextFate_eq _ _ _
  refine ⟨fun hc => ?_, fun c hc h1 => ?_⟩
  · rw [catchUp_unbounded hp hc, hn, honward]
  · have hlast : c - 1 - min n (c - 1) = 0 ↔ c ≤ n + 1 := by omega
    rw [catchUp_bounded hp hc, hn, honward]
    simp only [hlast]

/-! ### The entry that goes on -/

theorem nextFate_rearm {r next : Point} {n period : Nat} (h : nextFate r n period = .rearm next) :
    next = .ofNs (r.toNs + (n + 1) * period) ∧ next.InRange := by
  rw [nextFate_eq] at h
  split at h
  · cases h
  · cases h
    refine ⟨rfl, ?_, Point.ofNs_ns_lt _⟩
    unfold Point.ofNs maxSeconds nsPerSecond
    dsimp only
    omega

/-- An entry is re-armed only with a period, at the first due time after those counted. -/
theorem catchUp_rearm {e : Entry} {t next : Point} (h : (catchUp e t).fate = .rearm next) :
    ∃ p, e.period = some p ∧ nextFate e.release (dueTimes e.release t p.toNs) p.toNs = .rearm next ∧
      ∀ c ∈ (catchUp e t).remaining, 1 ≤ c ∧ ∃ c' ∈ e.remaining, c ≤ c' := by
  cases hp : e.period with
  | none =>
    rw [catchUp_once hp] at h
    cases h
  | some p =>
    refine ⟨p, rfl, ?_⟩
    cases hc : e.remaining with
    | none =>
      rw [catchUp_unbounded hp hc] at h ⊢
      dsimp only at h
      exact ⟨h, fun left hleft => absurd hleft (Option.not_mem_none left)⟩
    | some c =>
      rw [catchUp_bounded hp hc] at h ⊢
      by_cases hlast : c - 1 - min (dueTimes e.release t p.toNs) (c - 1) = 0
      · simp [hlast] at h
      · simp only [if_neg hlast] at h
        refine ⟨h, fun left hleft => ?_⟩
        obtain rfl := Option.mem_some_iff.1 hleft
        exact ⟨by omega, c, rfl, by omega⟩

/-- A re-armed entry keeps the promises about entries, and lies after the present (R73, R75). -/
theorem rearmed_sound {e : Entry} {t next : Point} (he : e.sound) (ht : t.InRange)
    (h : (catchUp e t).fate = .rearm next) :
    ({ e.counted (catchUp e t) with release := next } : Entry).sound ∧ ¬ next.atOrBefore t := by
  obtain ⟨p, hp, hnext, hremaining⟩ := catchUp_rearm h
  obtain ⟨rfl, hrange⟩ := nextFate_rearm hnext
  obtain ⟨hperiod, hcount, -⟩ := he
  refine ⟨⟨hperiod, fun c hc => ?_, hrange.1, hrange.2, Nat.min_le_left .., Nat.min_le_left ..⟩, fun hle => ?_⟩
  · obtain ⟨hpos, c', hc', hle⟩ := hremaining c hc
    obtain ⟨-, hmax, hsome⟩ := hcount c' hc'
    exact ⟨hpos, hle.trans hmax, hsome⟩
  · have hpos : 0 < p.toNs := lt_of_lt_of_le (by decide) (hperiod p hp)
    have hlt := lt_next_dueTime e.release t hpos
    obtain ⟨-, hns⟩ := ht
    unfold nsPerSecond at hns
    rw [Point.atOrBefore_iff_toNs_le (Nat.le_of_lt_succ (Point.ofNs_ns_lt _)) (by omega), Point.toNs_ofNs] at hle
    omega

end Sys2Proof.Machine

/-! The armed list in its order, and what one occurrence leaves of it (R67, R68, R73 to R76): the list stays
complete, sorted and of sound entries, and an entry released is no longer due. -/

namespace Sys2Proof.Machine

/-! ### Joining and leaving the armed list -/

/-- An entry of release time `r` joins a sorted list at its place (R67). -/
theorem Calendar.insertArmed_sorted {c c' : Calendar} {i : RecordNo} {r : Point} (hi : c'.releaseOf i = r) :
    ∀ {armed : List RecordNo}, (∀ j ∈ armed, c'.releaseOf j = c.releaseOf j) →
      (armed.Pairwise fun j k => (c.releaseOf j).atOrBefore (c.releaseOf k)) →
      (c.insertArmed i r armed).Pairwise fun j k => (c'.releaseOf j).atOrBefore (c'.releaseOf k)
  | [], _, _ => List.pairwise_singleton ..
  | j :: rest, hsame, hsorted => by
    have hrest := fun k hk => hsame k (List.mem_cons_of_mem j hk)
    obtain ⟨hfirst, htail⟩ := List.pairwise_cons.1 hsorted
    have hj := hsame j (List.mem_cons_self ..)
    unfold Calendar.insertArmed
    split
    · rename_i hle
      refine List.pairwise_cons.2 ⟨fun k hk => ?_, insertArmed_sorted hi hrest htail⟩
      rcases Calendar.mem_insertArmed.1 hk with rfl | hk
      · rwa [hi, hj]
      · rw [hj, hrest k hk]
        exact hfirst k hk
    · rename_i hlt
      have hbefore := Point.atOrBefore_of_not hlt
      refine List.pairwise_cons.2 ⟨fun k hk => ?_, hsorted.imp_of_mem fun ha hb hab => ?_⟩
      · rw [hi, hsame k hk]
        rcases List.mem_cons.1 hk with rfl | hk
        · exact hbefore
        · exact Point.atOrBefore_trans hbefore (hfirst k hk)
      · rwa [hsame _ ha, hsame _ hb]

theorem Calendar.arm_releaseOf (c : Calendar) (i j : RecordNo) (e : Entry) (r : Point) :
    (c.arm i e r).releaseOf j = if j = i then r else c.releaseOf j := by
  unfold Calendar.releaseOf
  rw [Calendar.arm_content]
  split <;> rfl

theorem Calendar.finish_releaseOf_of_ne (c : Calendar) {i j : RecordNo} (e : Entry) (cause : FinishCause)
    (hji : j ≠ i) : (c.finish i e cause).releaseOf j = c.releaseOf j := by
  unfold Calendar.releaseOf
  rw [Calendar.finish_content, if_neg hji]

/-- The promises about the armed list, but for what record `i` holds. -/
def Calendar.SoundBut (c : Calendar) (i : RecordNo) : Prop :=
  c.CompleteBut i ∧ ArmedListSorted c ∧
    ∀ j ∈ c.armed, j ≠ i → ∀ e ∈ c.records[j].content.entry?, e.sound

theorem Calendar.soundBut_of_armed {c : Calendar} {i : RecordNo} {e : Entry} (hc : ArmedListSound c)
    (h : c.records[i].content = .armed e) : c.SoundBut i := by
  obtain ⟨hcomplete, hsorted, hentries⟩ := hc
  exact ⟨Calendar.completeBut_of_armed hcomplete h, hsorted, fun j hj _ => hentries j hj⟩

/-- The entry of an ARMED record is sound. -/
theorem ArmedListSound.entry {c : Calendar} {i : RecordNo} {e : Entry} (hc : ArmedListSound c)
    (hi : c.records[i].content = .armed e) : e.sound := by
  obtain ⟨⟨-, -, hrecords⟩, -, hentries⟩ := hc
  exact hentries i ((hrecords i).1.2 (by rw [hi]; rfl)) e (by rw [hi]; rfl)

/-- A sound entry armed at its place (R68, R71, R75, R84). -/
theorem Calendar.SoundBut.arm {c : Calendar} {i : RecordNo} (hc : c.SoundBut i) {e : Entry} {r : Point}
    (he : ({ e with release := r } : Entry).sound) : ArmedListSound (c.arm i e r) := by
  obtain ⟨hcomplete, hsorted, hentries⟩ := hc
  obtain ⟨hnodup, -⟩ := id hcomplete
  have hne : ∀ j ∈ c.armed.erase i, j ≠ i := fun j hj => (hnodup.mem_erase_iff.1 hj).1
  refine ⟨hcomplete.arm e r, ?_, fun j hj x hx => ?_⟩
  · refine Calendar.insertArmed_sorted (by rw [Calendar.arm_releaseOf, if_pos rfl])
      (fun j hj => ?_) (hsorted.sublist List.erase_sublist)
    rw [Calendar.arm_releaseOf, if_neg (hne j hj)]
  · rw [Calendar.arm_content] at hx
    rcases Calendar.mem_insertArmed.1 hj with rfl | hj
    · rw [if_pos rfl] at hx
      cases hx
      exact he
    · rw [if_neg (hne j hj)] at hx
      exact hentries j (List.mem_of_mem_erase hj) (hne j hj) x hx

/-- A finished entry leaves the list, and the others stand as they were (R76, R85). -/
theorem Calendar.SoundBut.finish {c : Calendar} {i : RecordNo} (hc : c.SoundBut i) (e : Entry)
    (cause : FinishCause) : ArmedListSound (c.finish i e cause) := by
  obtain ⟨hcomplete, hsorted, hentries⟩ := hc
  obtain ⟨hnodup, -⟩ := id hcomplete
  have hne : ∀ j ∈ c.armed.erase i, j ≠ i := fun j hj => (hnodup.mem_erase_iff.1 hj).1
  refine ⟨hcomplete.finish e cause, ?_, fun j hj x hx => ?_⟩
  · refine (hsorted.sublist List.erase_sublist).imp_of_mem fun ha hb hab => ?_
    rwa [c.finish_releaseOf_of_ne e cause (hne _ ha), c.finish_releaseOf_of_ne e cause (hne _ hb)]
  · rw [Calendar.finish_content, if_neg (hne j hj)] at hx
    exact hentries j (List.mem_of_mem_erase hj) (hne j hj) x hx

/-- The calendar that an admission arms its entry in: the record taken from the queue's head, still FREE. -/
def Calendar.taken (c : Calendar) (i : RecordNo) (rest : List RecordNo) : Calendar :=
  { c.putRecord i { gen := c.records[i].gen + 1, content := .free } with freeRecords := rest }

theorem Calendar.take_eq (c : Calendar) (i : RecordNo) (rest : List RecordNo) (e : Entry) (r : Point) :
    c.take i rest e r = (c.taken i rest).arm i e r := rfl

theorem Calendar.taken_record_of_ne (c : Calendar) {i j : RecordNo} (rest : List RecordNo) (hji : j ≠ i) :
    (c.taken i rest).records[j] = c.records[j] := by
  change (c.putRecord i _).records[j] = _
  rw [Calendar.putRecord_get, if_neg hji]

theorem Calendar.taken_releaseOf_of_ne (c : Calendar) {i j : RecordNo} (rest : List RecordNo) (hji : j ≠ i) :
    (c.taken i rest).releaseOf j = c.releaseOf j := by
  unfold Calendar.releaseOf
  rw [Calendar.taken_record_of_ne c rest hji]

/-- The record at the head of the free-record queue is not ARMED (R66). -/
theorem Calendar.not_mem_armed_of_free {c : Calendar} {i : RecordNo} {rest : List RecordNo}
    (hc : ArmedListComplete c) (hfree : c.freeRecords = i :: rest) : i ∉ c.armed := by
  obtain ⟨-, -, hrecords⟩ := hc
  obtain ⟨harmed, hqueued⟩ := hrecords i
  have hidle := hqueued.1 (by rw [hfree]; exact List.mem_cons_self ..)
  intro hi
  rw [harmed.1 hi] at hidle
  cases hidle

/-- A sound entry admitted at its place (R71). -/
theorem Calendar.sound_take {c : Calendar} {i : RecordNo} {rest : List RecordNo} (hc : ArmedListSound c)
    (hfree : c.freeRecords = i :: rest) {e : Entry} {r : Point}
    (he : ({ e with release := r } : Entry).sound) : ArmedListSound (c.take i rest e r) := by
  obtain ⟨hcomplete, hsorted, hentries⟩ := hc
  have hi := Calendar.not_mem_armed_of_free hcomplete hfree
  have hne : ∀ j ∈ c.armed, j ≠ i := fun j hj hji => hi (hji ▸ hj)
  obtain ⟨hnodup, hqueue, hrecords⟩ := hcomplete
  rw [hfree] at hqueue
  obtain ⟨hnot, hrest⟩ := List.nodup_cons.1 hqueue
  have htaken : (c.taken i rest).SoundBut i := by
    refine ⟨⟨hnodup, hrest, hnot, fun j hji => ?_⟩, ?_, fun j hj hji x hx => ?_⟩
    · rw [Calendar.taken_record_of_ne c rest hji]
      refine ⟨(hrecords j).1, Iff.trans ?_ (hrecords j).2⟩
      change j ∈ rest ↔ j ∈ c.freeRecords
      rw [hfree, List.mem_cons, or_iff_right hji]
    · refine List.Pairwise.imp_of_mem (fun ha hb hab => ?_) hsorted
      rwa [c.taken_releaseOf_of_ne rest (hne _ ha), c.taken_releaseOf_of_ne rest (hne _ hb)]
    · rw [Calendar.taken_record_of_ne c rest hji] at hx
      exact hentries j hj x hx
  exact htaken.arm he

/-! ### What is due -/

theorem mem_dueEntries {s : State} {i : RecordNo} :
    i ∈ dueEntries s ↔ i ∈ s.calendar.armed ∧ (s.calendar.releaseOf i).atOrBefore s.time.now := by
  simp [dueEntries]

/-- An entry armed after the present is not due, and no other becomes so. -/
theorem dueEntries_arm {s : State} {i j : RecordNo} {e : Entry} {r : Point}
    (hj : j ∈ dueEntries { s with calendar := s.calendar.arm i e r }) :
    j = i ∧ r.atOrBefore s.time.now ∨ j ≠ i ∧ j ∈ dueEntries s := by
  obtain ⟨harmed, hle⟩ := mem_dueEntries.1 hj
  change (Calendar.releaseOf (s.calendar.arm i e r) j).atOrBefore s.time.now at hle
  rw [Calendar.arm_releaseOf] at hle
  by_cases hji : j = i
  · rw [if_pos hji] at hle
    exact .inl ⟨hji, hle⟩
  · rw [if_neg hji] at hle
    have hmem : j ∈ s.calendar.armed.erase i := (Calendar.mem_insertArmed.1 harmed).resolve_left hji
    exact .inr ⟨hji, mem_dueEntries.2 ⟨List.mem_of_mem_erase hmem, hle⟩⟩

theorem dueEntries_finish {s : State} {i j : RecordNo} {e : Entry} {cause : FinishCause}
    (hnodup : s.calendar.armed.Nodup)
    (hj : j ∈ dueEntries { s with calendar := s.calendar.finish i e cause }) : j ≠ i ∧ j ∈ dueEntries s := by
  obtain ⟨harmed, hle⟩ := mem_dueEntries.1 hj
  obtain ⟨hji, hmem⟩ := hnodup.mem_erase_iff.1 harmed
  change (Calendar.releaseOf (s.calendar.finish i e cause) j).atOrBefore s.time.now at hle
  rw [Calendar.finish_releaseOf_of_ne _ _ _ hji] at hle
  exact ⟨hji, mem_dueEntries.2 ⟨hmem, hle⟩⟩

/-! ### One occurrence (R74) -/

/-- The occurrence that an entry ARMED in record `i` has at Common Time as it stands. -/
def State.occurrence (s : State) (late : Bool) (i : RecordNo) (e : Entry) : Occurrence :=
  { entry := ⟨i, s.calendar.records[i].gen⟩, owner := e.owner, number := min countLimit (e.occurrences + 1)
    skipped := skippedField (catchUp e s.time.now).skipped, release := e.release, late := late }

/-- The occurrence whole: handed on, reported with NOTIFY, and the entry's fate. -/
theorem releaseEntry_of_armed {late : Bool} {s : State} {i : RecordNo} {e : Entry}
    (h : s.calendar.records[i].content = .armed e) :
    releaseEntry late s i =
      settleFate i ⟨i, s.calendar.records[i].gen⟩ (e.counted (catchUp e s.time.now))
        (catchUp e s.time.now).fate
        (reportRelease e (s.occurrence late i e) (handOn (s.occurrence late i e) e.action s).2
          (handOn (s.occurrence late i e) e.action s).1) := by
  unfold releaseEntry
  rw [h]
  rfl

/-- A record that is not ARMED has no occurrence. -/
theorem releaseEntry_of_not_armed {late : Bool} {s : State} {i : RecordNo}
    (h : s.calendar.records[i].content.isArmed = false) : releaseEntry late s i = s := by
  unfold releaseEntry
  split
  · rename_i e he
    rw [he] at h
    cases h
  · rfl

/-- The calendar after the fate of the entry in record `i`. -/
def Calendar.settled (c : Calendar) (i : RecordNo) (e : Entry) : Fate → Calendar
  | .rearm next => c.arm i e next
  | .finish cause => c.finish i e cause

theorem settleFate_calendar (i : RecordNo) (h : Handle) (e : Entry) (fate : Fate) (s : State) :
    (settleFate i h e fate s).calendar = s.calendar.settled i e fate := by
  cases fate with
  | rearm next => rfl
  | finish cause =>
    change (reportNow _ _ _).calendar = _
    rw [reportNow_calendar, finishEntry_calendar]
    rfl

theorem releaseEntry_calendar {late : Bool} {s : State} {i : RecordNo} {e : Entry}
    (h : s.calendar.records[i].content = .armed e) :
    (releaseEntry late s i).calendar =
      s.calendar.settled i (e.counted (catchUp e s.time.now)) (catchUp e s.time.now).fate := by
  rw [releaseEntry_of_armed h, settleFate_calendar, reportRelease_calendar, handOn_calendar]

/-- The promises about the Calendar but that nothing is due: what holds between the releases of one event. -/
abbrev ScheduleSound (s : State) : Prop := TimeInRange s.time ∧ ArmedListSound s.calendar

theorem TimeInRange.now {t : TimeBase} (h : TimeInRange t) : t.now.InRange := by
  obtain ⟨hsec, hns, -⟩ := h
  exact ⟨hsec, hns⟩

theorem dueEntries_congr {s t : State} (hc : t.calendar = s.calendar) (hn : t.time.now = s.time.now) :
    dueEntries t = dueEntries s := by
  unfold dueEntries
  rw [hc, hn]

/-- An occurrence keeps the armed list sound, and leaves its entry not due and no other newly due. -/
theorem scheduleSound_releaseEntry (late : Bool) {s : State} (i : RecordNo) (hs : ScheduleSound s) :
    ScheduleSound (releaseEntry late s i) ∧
      ∀ j ∈ dueEntries (releaseEntry late s i), j ≠ i ∧ j ∈ dueEntries s := by
  obtain ⟨htime, hlist⟩ := id hs
  obtain ⟨⟨hnodup, -, hrecords⟩, -⟩ := id hlist
  have hkept := releaseEntry_undisturbed late s i
  cases hi : s.calendar.records[i].content with
  | armed e =>
    have hbut := Calendar.soundBut_of_armed hlist hi
    have hsound := ArmedListSound.entry hlist hi
    have hcalendar := releaseEntry_calendar (late := late) hi
    have hdue := dueEntries_congr (t := releaseEntry late s i)
      (s := { s with calendar := (releaseEntry late s i).calendar }) rfl (by rw [hkept.time])
    rw [ScheduleSound, hkept.time, hdue, hcalendar]
    cases hfate : (catchUp e s.time.now).fate with
    | rearm next =>
      obtain ⟨hnext, hafter⟩ := rearmed_sound hsound htime.now hfate
      exact ⟨⟨htime, hbut.arm hnext⟩, fun j hj =>
        (dueEntries_arm hj).resolve_left fun hnow => hafter hnow.2⟩
    | finish cause => exact ⟨⟨htime, hbut.finish _ cause⟩, fun j hj => dueEntries_finish hnodup hj⟩
  | free | finished e why =>
    have hnot : s.calendar.records[i].content.isArmed = false := by rw [hi]; rfl
    rw [releaseEntry_of_not_armed hnot]
    refine ⟨hs, fun j hj => ⟨fun hji => ?_, hj⟩⟩
    have harmed := (hrecords i).1.1 (hji ▸ (mem_dueEntries.1 hj).1)
    rw [hnot] at harmed
    cases harmed

/-! ### All that one event releases -/

/-- Releases of a list of entries leave due what was due and is not among them. -/
theorem scheduleSound_releases (late : Bool) : ∀ (l : List RecordNo) {s : State}, ScheduleSound s →
    ScheduleSound (l.foldl (releaseEntry late) s) ∧
      ∀ j ∈ dueEntries (l.foldl (releaseEntry late) s), j ∉ l ∧ j ∈ dueEntries s
  | [], _, hs => ⟨hs, fun _ hj => ⟨List.not_mem_nil, hj⟩⟩
  | i :: l, s, hs => by
    obtain ⟨hone, hdue⟩ := scheduleSound_releaseEntry late i hs
    obtain ⟨hall, hdue'⟩ := scheduleSound_releases late l hone
    refine ⟨hall, fun j hj => ?_⟩
    obtain ⟨hnot, hj⟩ := hdue' j hj
    obtain ⟨hji, hj⟩ := hdue j hj
    exact ⟨List.not_mem_cons_of_ne_of_not_mem hji hnot, hj⟩

/-- After every due entry has been released none is due (R67, R73). -/
theorem calendarSound_releaseDue (late : Bool) {s : State} (hs : ScheduleSound s) :
    CalendarSound (releaseDue late s) := by
  obtain ⟨⟨htime, hlist⟩, hdue⟩ := scheduleSound_releases late (dueEntries s) hs
  exact ⟨htime, hlist, fun _ => List.eq_nil_iff_forall_not_mem.2 fun j hj => (hdue j hj).1 (hdue j hj).2⟩

theorem calendarSound_releaseIfRunning (late : Bool) {s : State} (hs : ScheduleSound s) :
    CalendarSound (releaseIfRunning late s) := by
  unfold releaseIfRunning
  split
  · exact calendarSound_releaseDue late hs
  · rename_i hheld
    exact ⟨hs.1, hs.2, fun hrunning => absurd hrunning hheld⟩

/-- An entry just armed, the only one that may be due, is released when it is (R72, R84). -/
theorem calendarSound_releaseIfDue (late : Bool) {i : RecordNo} {r : Point} {s : State} (hs : ScheduleSound s)
    (hdue : s.running → ∀ j ∈ dueEntries s, j = i ∧ r.atOrBefore s.time.now) :
    CalendarSound (releaseIfDue late i r s) := by
  unfold releaseIfDue
  split
  · rename_i hnow
    obtain ⟨⟨htime, hlist⟩, hleft⟩ := scheduleSound_releaseEntry late i hs
    refine ⟨htime, hlist, fun _ => List.eq_nil_iff_forall_not_mem.2 fun j hj => ?_⟩
    obtain ⟨hji, hj⟩ := hleft j hj
    exact hji (hdue hnow.1 j hj).1
  · rename_i hnot
    exact ⟨hs.1, hs.2, fun hrunning => List.eq_nil_iff_forall_not_mem.2 fun j hj =>
      hnot ⟨hrunning, (hdue hrunning j hj).2⟩⟩

end Sys2Proof.Machine

/-! The Calendar under every command and event (R63 to R67): what touches neither times nor entries keeps its
promises, every change of Common Time or of the release state is followed by the releases it makes due, and
an entry admitted or moved is sound and released when it is due. -/

namespace Sys2Proof.Machine

/-! ### What leaves times and entries alone -/

/-- Times and entries stand as they were. -/
structure SameSchedule (s t : State) : Prop where
  time : t.time = s.time
  calendar : t.calendar = s.calendar

theorem SameSchedule.refl (s : State) : SameSchedule s s := ⟨rfl, rfl⟩

theorem SameSchedule.trans {a b c : State} (h : SameSchedule a b) (k : SameSchedule b c) : SameSchedule a c :=
  ⟨k.time.trans h.time, k.calendar.trans h.calendar⟩

theorem sameSchedule_foldl {α : Type} {f : State → α → State} (h : ∀ s x, SameSchedule s (f s x)) (l : List α)
    (s : State) : SameSchedule s (l.foldl f s) := by
  induction l generalizing s with
  | nil => exact .refl s
  | cons x l ih => exact (h s x).trans (ih (f s x))

theorem SameSchedule.calendarSound {s t : State} (h : SameSchedule s t) (hs : CalendarSound s) :
    CalendarSound t := by
  unfold CalendarSound NothingDue State.running at *
  rwa [dueEntries_congr h.calendar (by rw [h.time]), h.time, h.calendar]

theorem sameSchedule_report (p : Port) (cause : Stamp) (b : ReportBody) (s : State) :
    SameSchedule s (report p cause b s) := ⟨report_time .., report_calendar ..⟩

theorem sameSchedule_reportNow (p : Port) (b : ReportBody) (s : State) : SameSchedule s (reportNow p b s) :=
  sameSchedule_report ..

theorem sameSchedule_cancelArming (cause : CancelCause) (s : State) : SameSchedule s (cancelArming cause s) :=
  ⟨(cancelArming_undisturbed cause s).time, cancelArming_calendar cause s⟩

theorem sameSchedule_handover (former : Port) (cause : LossCause) (s : State) :
    SameSchedule s (handover former cause s) := by
  have hgranted (a : Authority) : SameSchedule s { s with authority := a } := ⟨rfl, rfl⟩
  unfold handover
  split
  · exact .refl s
  · exact (hgranted _).trans (sameSchedule_reportNow _ _ _)

theorem sameSchedule_flush (p : Port) (s : State) : SameSchedule s (flush p s) := by
  rw [flush_eq]
  exact ⟨rfl, rfl⟩

theorem sameSchedule_releaseOf (line : Line) (s : State) : SameSchedule s (releaseOf line s) := by
  cases line with
  | event l =>
    have hcancelled : SameSchedule s (cancelArmingOn l s) := by
      unfold cancelArmingOn
      split
      · split
        · exact sameSchedule_cancelArming _ s
        · exact .refl s
      · exact .refl s
    exact hcancelled.trans ⟨rfl, rfl⟩
  | output o => exact ⟨rfl, rfl⟩

theorem sameSchedule_endClaims (p : Port) (s : State) : SameSchedule s (endClaims p s) := by
  refine sameSchedule_foldl (fun s line => ?_) _ s
  split
  · exact sameSchedule_releaseOf line s
  · exact .refl s

theorem sameSchedule_capture (l : EvLine) (owner : Port) (stamp : Stamp) (pol : Polarity) (s : State) :
    SameSchedule s (capture l owner stamp pol s) := by
  have hrecord : SameSchedule s (s.putLine l ((s.events.lines.get l).record stamp pol)) := ⟨rfl, rfl⟩
  unfold capture
  dsimp only
  split
  · exact hrecord.trans (sameSchedule_report _ _ _ _)
  · exact hrecord

/-! ### Commands that leave times and entries alone: every branch of each -/

section

variable (p : Port) (ps : List Byte) (s : State)

theorem sameSchedule_claimAuthority : SameSchedule s (claimAuthority p ps s).state := by
  unfold claimAuthority
  dsimp only
  repeat' split
  all_goals exact ⟨rfl, rfl⟩

theorem sameSchedule_renewAuthority : SameSchedule s (renewAuthority p ps s).state := by
  unfold renewAuthority asHolder
  repeat' split
  all_goals exact ⟨rfl, rfl⟩

theorem sameSchedule_withdrawClaim : SameSchedule s (withdrawClaim p ps s).state := by
  unfold withdrawClaim
  split <;> exact ⟨rfl, rfl⟩

theorem sameSchedule_openDraft : SameSchedule s (openDraft p ps s).state := by
  unfold openDraft
  repeat' split
  all_goals exact ⟨rfl, rfl⟩

theorem sameSchedule_append : SameSchedule s (append p ps s).state := by
  unfold append
  dsimp only
  repeat' split
  all_goals exact ⟨rfl, rfl⟩

theorem sameSchedule_abandonDraft : SameSchedule s (abandonDraft p ps s).state := by
  unfold abandonDraft
  repeat' split
  all_goals exact ⟨rfl, rfl⟩

theorem sameSchedule_setQuota : SameSchedule s (setQuota p ps s).state := by
  have hset (st : Store) (q : Port) (b : ReportBody) :
      SameSchedule s (reportNow q b { s with store := st }) :=
    have hstore : SameSchedule s { s with store := st } := ⟨rfl, rfl⟩
    hstore.trans (sameSchedule_reportNow q b _)
  unfold setQuota
  dsimp only
  split
  · exact .refl s
  · split
    · exact .refl s
    · split
      · exact .refl s
      · exact hset _ _ _

theorem sameSchedule_queryEntry : SameSchedule s (queryEntry p ps s).state := by
  unfold queryEntry
  repeat' split
  all_goals exact ⟨rfl, rfl⟩

theorem sameSchedule_fetchHead : SameSchedule s (fetchHead p ps s).state := by
  unfold fetchHead
  split <;> exact ⟨rfl, rfl⟩

theorem sameSchedule_readPayload : SameSchedule s (readPayload p ps s).state := by
  unfold readPayload
  dsimp only
  repeat' split
  all_goals exact ⟨rfl, rfl⟩

theorem sameSchedule_discardHead : SameSchedule s (discardHead p ps s).state := by
  unfold discardHead removeHead
  repeat' split
  all_goals exact ⟨rfl, rfl⟩

theorem sameSchedule_setInbox : SameSchedule s (setInbox p ps s).state := by
  unfold setInbox
  dsimp only
  split <;> exact ⟨rfl, rfl⟩

theorem sameSchedule_claimLine : SameSchedule s (claimLine p ps s).state := by
  unfold claimLine claim
  dsimp only
  repeat' split
  all_goals exact ⟨rfl, rfl⟩

theorem sameSchedule_releaseLine : SameSchedule s (releaseLine p ps s).state := by
  unfold releaseLine
  split
  · exact .refl s
  · split
    · exact .refl s
    · exact sameSchedule_releaseOf _ s

theorem sameSchedule_takeCapture : SameSchedule s (takeCapture p ps s).state := by
  unfold takeCapture
  dsimp only
  repeat' split
  all_goals exact ⟨rfl, rfl⟩

theorem sameSchedule_armAlign : SameSchedule s (armAlign p ps s).state := by
  unfold armAlign
  dsimp only
  repeat' split
  all_goals exact ⟨rfl, rfl⟩

theorem sameSchedule_disarmAlign : SameSchedule s (disarmAlign p ps s).state := by
  unfold disarmAlign
  split <;> exact ⟨rfl, rfl⟩

theorem sameSchedule_driveLine : SameSchedule s (driveLine p ps s).state := by
  unfold driveLine
  dsimp only
  repeat' split
  all_goals exact ⟨rfl, rfl⟩

theorem sameSchedule_takeReport : SameSchedule s (takeReport p ps s).state := by
  unfold takeReport
  split <;> exact ⟨rfl, rfl⟩

theorem sameSchedule_setReportMask : SameSchedule s (setReportMask p ps s).state := by
  unfold setReportMask
  dsimp only
  split <;> exact ⟨rfl, rfl⟩

theorem sameSchedule_attach : SameSchedule s (attach p ps s).state := by
  unfold attach
  dsimp only
  split <;> exact ⟨rfl, rfl⟩

end

/-! ### Times other than Common Time, and changes of Common Time (R4, R10, R18) -/

/-- What moves no Common Time and keeps the ranges makes nothing due. -/
theorem calendarSound_time {s : State} {t : TimeBase} (hs : CalendarSound s) (hnow : t.now = s.time.now)
    (ht : TimeInRange s.time → TimeInRange t) : CalendarSound { s with time := t } := by
  obtain ⟨htime, hlist, hdue⟩ := hs
  exact ⟨ht htime, hlist, fun hrunning =>
    (dueEntries_congr (s := s) (t := { s with time := t }) rfl hnow).trans (hdue hrunning)⟩

theorem calendarSound_settleTick {s : State} (hs : CalendarSound s) : CalendarSound s.settleTick :=
  calendarSound_time hs (TimeBase.settle_now _) timeInRange_settle

theorem calendarSound_slew {s : State} {x : Option Slew} (hs : CalendarSound s)
    (hx : ∀ y ∈ x, rateInRange y.rate) : CalendarSound { s with time := { s.time with slew := x } } :=
  calendarSound_time hs rfl fun ⟨hsec, hns, hfrac, hbase, _, hrest⟩ => ⟨hsec, hns, hfrac, hbase, hx, hrest⟩

theorem calendarSound_endSlew (cause : SlewCause) {s : State} (hs : CalendarSound s) :
    CalendarSound (endSlew cause s) := by
  unfold endSlew
  split
  · exact hs
  · have hended := calendarSound_slew (x := none) hs nofun
    exact SameSchedule.calendarSound ⟨reportHolder_time .., reportHolder_calendar ..⟩ hended

theorem calendarSound_slewEnd {s : State} (hs : CalendarSound s) : CalendarSound (slewEnd s) := by
  unfold slewEnd
  split
  · split
    · exact calendarSound_endSlew _ hs
    · exact hs
  · exact hs

/-- After a time change every entry that it makes due has been released (R10, R79). -/
theorem calendarSound_changeTime {new : Point} {frac : Nat} (ts : TimeState) (cause : ChangeCause) {s : State}
    (hs : ScheduleSound s) (hnew : new.InRange) (hfrac : frac < unitsPerNs) :
    CalendarSound (changeTime new frac ts cause s) := by
  obtain ⟨⟨-, -, -, hrest⟩, hlist⟩ := hs
  rw [changeTime_eq, reportTimeChange_eq]
  exact calendarSound_releaseIfRunning true ⟨⟨hnew.1, hnew.2, hfrac, hrest⟩, hlist⟩

/-- After an advance every entry that it reaches has been released (R4, R9, R73). -/
theorem calendarSound_advance {s : State} (hs : CalendarSound s) (hp : s.time.periods < periodsPerTick) :
    CalendarSound (advance s) := by
  obtain ⟨htime, hlist, -⟩ := hs
  have hns := advancedPoint_ns_lt htime
  have hfrac : s.time.advancedUnits % unitsPerNs < unitsPerNs := Nat.mod_lt _ (by decide)
  obtain ⟨hsec, hns', hfrac', hbase, hslew, helapsed, -⟩ := htime
  have hcounted : ScheduleSound (countPeriod s) := ⟨⟨hsec, hns', hfrac', hbase, hslew, helapsed, hp⟩, hlist⟩
  by_cases hwrap : maxSeconds < s.time.advancedPoint.sec
  · rw [advance_wraps hwrap]
    exact calendarSound_changeTime _ _ hcounted ⟨Nat.zero_le _, hns⟩ hfrac
  · have hle := Nat.le_of_not_lt hwrap
    rw [advance_moves hle]
    exact calendarSound_releaseIfRunning false ⟨⟨hle, hns, hfrac, hbase, hslew, helapsed, hp⟩, hlist⟩

/-! ### Holding and resuming (R81 to R83), the loss of the authority (R33) -/

/-- A HELD Calendar resumed has released every due entry. -/
theorem calendarSound_resume {s : State} (hs : CalendarSound s) : CalendarSound (resume s) := by
  by_cases hrunning : s.running
  · rwa [resume_running hrunning]
  · rw [resume_held hrunning]
    exact calendarSound_releaseDue true ⟨hs.1, hs.2.1⟩

theorem calendarSound_loseAuthority (h : Holder) (cause : LossCause) {s : State} (hs : CalendarSound s) :
    CalendarSound (loseAuthority h cause s) := by
  have hvacated : SameSchedule s { s with authority := { s.authority with holder := none } } := ⟨rfl, rfl⟩
  have hreported := hvacated.trans
    ⟨(reportLoss_undisturbed h cause _).time, reportLoss_calendar h cause _⟩
  have hcancelled := hreported.trans (sameSchedule_cancelArming .authorityLost _)
  exact (sameSchedule_handover _ _ _).calendarSound (calendarSound_resume (hcancelled.calendarSound hs))

theorem calendarSound_leaseExpiry {s : State} (hs : CalendarSound s) : CalendarSound (leaseExpiry s) := by
  unfold leaseExpiry
  split
  · split
    · exact calendarSound_loseAuthority _ _ hs
    · exact hs
  · exact hs

theorem calendarSound_releaseAuthority (p : Port) (ps : List Byte) {s : State} (hs : CalendarSound s) :
    CalendarSound (releaseAuthority p ps s).state := by
  unfold releaseAuthority asHolder
  split
  · split
    · exact calendarSound_loseAuthority _ _ hs
    · exact hs
  · exact hs

/-! ### Ends taken before a period (R8, R18, R136) -/

theorem calendarSound_foldl {α : Type} {f : State → α → State}
    (h : ∀ s x, CalendarSound s → CalendarSound (f s x)) (l : List α) {s : State} (hs : CalendarSound s) :
    CalendarSound (l.foldl f s) := by
  induction l generalizing s with
  | nil => exact hs
  | cons x l ih => exact ih (h s x hs)

theorem sameSchedule_pulseEnd (o : OutLine) (s : State) : SameSchedule s (pulseEnd o s) := by
  rw [pulseEnd_eq]
  exact ⟨rfl, rfl⟩

theorem calendarSound_takeEnd (n : Nat) {s : State} (hs : CalendarSound s) : CalendarSound (takeEnd n s) := by
  unfold takeEnd
  split
  · exact calendarSound_slewEnd hs
  · exact (sameSchedule_pulseEnd _ s).calendarSound hs
  · exact (sameSchedule_pulseEnd _ s).calendarSound hs
  · exact (sameSchedule_pulseEnd _ s).calendarSound hs
  · exact (sameSchedule_pulseEnd _ s).calendarSound hs
  · exact hs

theorem calendarSound_takeEnds (l : List Nat) {s : State} (hs : CalendarSound s) :
    CalendarSound (l.foldl (fun s k => takeEnd k s) s) :=
  calendarSound_foldl (fun _ k => calendarSound_takeEnd k) l hs

theorem calendarSound_takeDueEnds {s : State} (hs : CalendarSound s) : CalendarSound (takeDueEnds s) := by
  have hdrawn : SameSchedule s { s with draws := s.draws + 1 } := ⟨rfl, rfl⟩
  unfold takeDueEnds
  split
  · exact calendarSound_takeEnds _
      (calendarSound_leaseExpiry (calendarSound_takeEnds _ (hdrawn.calendarSound hs)))
  · exact calendarSound_takeEnds _ hs

theorem takeEnds_periods (takes : Nat → Bool) (s : State) :
    ((endNumbers.filter takes).foldl (fun s k => takeEnd k s) s).time.periods = s.time.periods := by
  rw [takeEnds_filter]
  dsimp only
  rcases slewEnd_if_cases (takes 0) s with h | ⟨r, h⟩ <;> rw [h]

/-- No end that is taken counts a period. -/
theorem takeDueEnds_periods (s : State) : (takeDueEnds s).time.periods = s.time.periods := by
  unfold takeDueEnds
  split
  · dsimp only
    rw [takeEnds_periods, leaseExpiry_time, takeEnds_periods]
  · exact takeEnds_periods (fun _ => true) s

theorem calendarSound_refclkAdvance {s t : State} (hs : CalendarSound s) (h : execRefclkAdvance s = .next t) :
    CalendarSound t := by
  unfold execRefclkAdvance at h
  split at h <;> cases h
  · exact hs
  · refine calendarSound_advance (calendarSound_takeDueEnds (calendarSound_settleTick hs)) ?_
    rw [takeDueEnds_periods]
    obtain ⟨⟨-, -, -, -, -, -, hp⟩, -⟩ := hs
    exact TimeBase.settle_periods hp

/-! ### Commands of the Time Base -/

theorem calendarSound_loadTime (p : Port) (ps : List Byte) {s : State} (hs : CalendarSound s) :
    CalendarSound (loadTime p ps s).state := by
  unfold loadTime
  dsimp only
  split
  · exact hs
  · rename_i hns
    obtain ⟨htime, hlist, -⟩ := calendarSound_endSlew .loaded hs
    have hfrac : 0 < unitsPerNs := by decide
    rw [okay_state]
    exact calendarSound_changeTime _ _ ⟨htime, hlist⟩ (pointField_inRange hns) hfrac

theorem calendarSound_stepTime (p : Port) (ps : List Byte) {s : State} (hs : CalendarSound s) :
    CalendarSound (stepTime p ps s).state := by
  obtain ⟨htime, hlist, -⟩ := id hs
  obtain ⟨-, -, hfrac, -⟩ := id htime
  unfold stepTime
  split
  · exact hs
  · split
    · exact hs
    · rename_i new hnew
      rw [okay_state]
      exact calendarSound_changeTime _ _ ⟨htime, hlist⟩ (steppedTime_inRange htime.now hnew) hfrac

theorem calendarSound_setRate (p : Port) (ps : List Byte) {s : State} (hs : CalendarSound s) :
    CalendarSound (setRate p ps s).state := by
  unfold setRate
  split
  · rename_i hr
    exact calendarSound_time hs rfl fun ⟨hsec, hns, hfrac, _, hrest⟩ => ⟨hsec, hns, hfrac, hr, hrest⟩
  · exact hs

theorem calendarSound_startSlew (p : Port) (ps : List Byte) {s : State} (hs : CalendarSound s) :
    CalendarSound (startSlew p ps s).state := by
  unfold startSlew
  dsimp only
  split
  · exact hs
  · rename_i hr
    split
    · exact hs
    · exact calendarSound_slew (calendarSound_endSlew _ hs) fun y hy => Option.some.inj hy ▸ not_not.1 hr

theorem calendarSound_stopSlew (p : Port) (ps : List Byte) {s : State} (hs : CalendarSound s) :
    CalendarSound (stopSlew p ps s).state := by
  unfold stopSlew
  split
  · exact hs
  · exact calendarSound_slew hs nofun

/-! ### Commands of the Calendar (R70 to R72, R81, R84, R85) -/

/-- A HELD Calendar may have entries due. -/
theorem calendarSound_holdReleases (p : Port) (ps : List Byte) {s : State} (hs : CalendarSound s) :
    CalendarSound (holdReleases p ps s).state := by
  obtain ⟨htime, hlist, -⟩ := hs
  exact ⟨htime, hlist, nofun⟩

/-- Table 4-2 lets through only a period and a remaining count that an entry may have. -/
theorem scheduledEntry_sound {p : Port} {ps : List Byte} {timeBad : Bool} {a : EntryAction} {r : Point}
    (hchecks : scheduleFieldChecks ps timeBad = none) (hr : r.InRange) :
    ({ scheduledEntry p ps a with release := r } : Entry).sound := by
  have hrows := firstFailing_eq_none.1 hchecks
  simp only [List.mem_cons, List.not_mem_nil, or_false, forall_eq_or_imp, forall_eq] at hrows
  obtain ⟨-, -, -, hshort, hperiodless, hzero, -⟩ := hrows
  refine ⟨fun q hq => ?_, fun c hc => ?_, hr.1, hr.2, Nat.zero_le _, Nat.zero_le _⟩
  · change q ∈ (if periodPresent ps then some (periodField ps) else none) at hq
    split at hq
    · rename_i hpresent
      obtain rfl := Option.mem_some_iff.1 hq
      simpa [hpresent] using hshort
    · cases hq
  · change c ∈ (if remainingPresent ps then some (field ps 16 2) else none) at hc
    change _ ∧ _ ∧ (if periodPresent ps then some (periodField ps) else none) ≠ none
    split at hc
    · rename_i hpresent
      obtain rfl := Option.mem_some_iff.1 hc
      have hlt : field ps 16 2 < 256 ^ 2 := field_lt ps 16 2
      have hperiod : periodPresent ps = true := by simpa [hpresent] using hperiodless
      have hnonzero : field ps 16 2 ≠ 0 := by simpa [hpresent] using hzero
      rw [if_pos hperiod]
      exact ⟨by omega, by omega, nofun⟩
    · cases hc

theorem dueEntries_take {s : State} {i j : RecordNo} {rest : List RecordNo} {e : Entry} {r : Point}
    (hj : j ∈ dueEntries { s with calendar := s.calendar.take i rest e r }) :
    j = i ∧ r.atOrBefore s.time.now ∨ j ∈ dueEntries s := by
  rcases dueEntries_arm (s := { s with calendar := s.calendar.taken i rest }) hj with hnow | ⟨hji, hj⟩
  · exact .inl hnow
  · obtain ⟨harmed, hle⟩ := mem_dueEntries.1 hj
    change (Calendar.releaseOf (s.calendar.taken i rest) j).atOrBefore s.time.now at hle
    rw [Calendar.taken_releaseOf_of_ne _ _ hji] at hle
    exact .inr (mem_dueEntries.2 ⟨harmed, hle⟩)

theorem takeEntryReference_calendar (a : EntryAction) (s : State) :
    (takeEntryReference a s).calendar = s.calendar := by
  cases a <;> rfl

theorem takeEntryReference_time (a : EntryAction) (s : State) : (takeEntryReference a s).time = s.time := by
  cases a <;> rfl

/-- A sound entry admitted, and released when it is due (R71, R72). -/
theorem calendarSound_carryOutAdmission {i : RecordNo} {rest : List RecordNo} {e : Entry} {r : Point}
    (late : Bool) {s : State} (hs : CalendarSound s) (hfree : s.calendar.freeRecords = i :: rest)
    (he : ({ e with release := r } : Entry).sound) :
    CalendarSound (carryOutAdmission i rest e r late s).state := by
  obtain ⟨htime, hlist, hnothing⟩ := hs
  let taken : State := { s with calendar := s.calendar.take i rest e r }
  have hsame : SameSchedule taken (takeEntryReference e.action taken) :=
    ⟨takeEntryReference_time _ _, takeEntryReference_calendar _ _⟩
  refine calendarSound_releaseIfDue late ?_ fun hrunning j hj => ?_
  · rw [ScheduleSound, hsame.time, hsame.calendar]
    exact ⟨htime, Calendar.sound_take hlist hfree he⟩
  · rw [dueEntries_congr hsame.calendar (by rw [hsame.time])] at hj
    rw [hsame.time]
    refine (dueEntries_take hj).resolve_right fun hold => ?_
    have hrunning : s.running := by
      rw [State.running, hsame.calendar] at hrunning
      exact hrunning
    rw [hnothing hrunning] at hold
    cases hold

theorem calendarSound_schedule {p : Port} {ps : List Byte} {timeBad : Bool} {r : Point} (late : Bool) {s : State}
    (hs : CalendarSound s) (hchecks : scheduleFieldChecks ps timeBad = none) (hr : r.InRange) :
    CalendarSound (schedule p ps r late s).state := by
  unfold schedule
  split
  · rename_i hfree _
    exact calendarSound_carryOutAdmission late hs hfree (scheduledEntry_sound hchecks hr)
  · exact hs

theorem calendarSound_scheduleAt (p : Port) (ps : List Byte) {s : State} (hs : CalendarSound s) :
    CalendarSound (scheduleAt p ps s).state := by
  unfold scheduleAt
  dsimp only
  split
  · exact hs
  · rename_i hchecks
    have hrows := firstFailing_eq_none.1 hchecks
    simp only [List.mem_cons, forall_eq_or_imp] at hrows
    obtain ⟨-, hns, -⟩ := hrows
    split
    · exact hs
    · split
      · exact hs
      · split
        · exact hs
        · exact calendarSound_schedule true hs hchecks (pointField_inRange (of_decide_eq_false hns))

theorem calendarSound_scheduleAfter (p : Port) (ps : List Byte) {s : State} (hs : CalendarSound s) :
    CalendarSound (scheduleAfter p ps s).state := by
  unfold scheduleAfter
  dsimp only
  split
  · exact hs
  · rename_i hchecks
    split
    · exact hs
    · rename_i hle
      have hlast := (not_not.1 hle).sec_le
      split
      · exact hs
      · exact calendarSound_schedule false hs hchecks ⟨hlast, Point.ofNs_ns_lt _⟩

theorem calendarSound_onArmed {p : Port} {h : Handle} {s : State} {body : Entry → Reply} (hs : CalendarSound s)
    (hbody : ∀ e, s.calendar.records[h.record].content = .armed e → CalendarSound (body e).state) :
    CalendarSound (onArmed p h s body).state := by
  rcases onArmed_cases p h s body with hsame | ⟨e, harmed, hacts⟩
  · rwa [hsame]
  · rw [hacts]
    exact hbody e harmed

theorem calendarSound_retime (p : Port) (ps : List Byte) {s : State} (hs : CalendarSound s) :
    CalendarSound (retime p ps s).state := by
  obtain ⟨htime, hlist, hnothing⟩ := id hs
  unfold retime
  dsimp only
  split
  · exact hs
  · split
    · exact hs
    · rename_i hns
      split
      · exact hs
      · refine calendarSound_onArmed hs fun e harmed => ?_
        split
        · exact hs
        · obtain ⟨hperiod, hcount, -, -, hoccurrences, hmissed⟩ := ArmedListSound.entry hlist harmed
          have hrange := pointField_inRange hns
          have hmoved := (Calendar.soundBut_of_armed hlist harmed).arm
            (e := e) (r := pointField ps 2) ⟨hperiod, hcount, hrange.1, hrange.2, hoccurrences, hmissed⟩
          refine calendarSound_releaseIfDue true ⟨htime, hmoved⟩ fun hrunning j hj => ?_
          refine (dueEntries_arm hj).resolve_right fun hold => ?_
          rw [hnothing hrunning] at hold
          cases hold.2

/-- An entry finished makes nothing due. -/
theorem calendarSound_finishEntry {i : RecordNo} {e : Entry} (e' : Entry) (cause : FinishCause) {s : State}
    (hs : CalendarSound s) (hi : s.calendar.records[i].content = .armed e) :
    CalendarSound (finishEntry i e' cause s) := by
  obtain ⟨htime, hlist, hnothing⟩ := hs
  obtain ⟨⟨hnodup, -⟩, -⟩ := id hlist
  have hsame : SameSchedule { s with calendar := s.calendar.finish i e' cause } (finishEntry i e' cause s) :=
    ⟨(finishEntry_undisturbed i e' cause s).time, finishEntry_calendar i e' cause s⟩
  refine hsame.calendarSound ⟨htime, (Calendar.soundBut_of_armed hlist hi).finish e' cause, fun hrunning => ?_⟩
  refine List.eq_nil_iff_forall_not_mem.2 fun j hj => ?_
  obtain ⟨-, hold⟩ := dueEntries_finish hnodup hj
  rw [hnothing hrunning] at hold
  cases hold

theorem calendarSound_cancel (p : Port) (ps : List Byte) {s : State} (hs : CalendarSound s) :
    CalendarSound (cancel p ps s).state := by
  unfold cancel
  split
  · exact hs
  · exact calendarSound_onArmed hs fun e harmed => calendarSound_finishEntry e _ hs harmed

/-! ### The end of a session (R89, R169) -/

theorem calendarSound_endEntry (p : Port) (s : State) (i : RecordNo) (hs : CalendarSound s) :
    CalendarSound (endEntry p s i) := by
  unfold endEntry
  split
  · rename_i e harmed
    split
    · exact calendarSound_finishEntry e _ hs harmed
    · exact hs
  · exact hs

theorem calendarSound_endAuthority (p : Port) {s : State} (hs : CalendarSound s) :
    CalendarSound (endAuthority p s) := by
  have hdropped : SameSchedule s (dropWaiter p s) := ⟨rfl, rfl⟩
  unfold endAuthority
  split
  · split
    · exact calendarSound_loseAuthority _ _ hs
    · exact hdropped.calendarSound hs
  · exact hdropped.calendarSound hs

/-- The parts of Table 9-2: only the first two touch the Calendar. -/
theorem calendarSound_endSession (p : Port) {s : State} (hs : CalendarSound s) :
    CalendarSound (endSession p s) := by
  have hdeparting : SameSchedule s { s with departing := some p } := ⟨rfl, rfl⟩
  have hentries := calendarSound_foldl (calendarSound_endEntry p) s.calendar.armed (hdeparting.calendarSound hs)
  have hauthority := calendarSound_endAuthority p hentries
  have hstore (u : State) (st : Store) : SameSchedule u { u with store := st } := ⟨rfl, rfl⟩
  have hinbox (u : State) : SameSchedule u (endInbox p u) := (sameSchedule_flush p u).trans ⟨rfl, rfl⟩
  have hreports (u : State) : SameSchedule u (endReports p u) := ⟨rfl, rfl⟩
  have hport (u : State) : SameSchedule u (endPort p u) := ⟨rfl, rfl⟩
  unfold endSession
  dsimp only
  refine ((hreports _).trans (hport _)).calendarSound ?_
  refine ((sameSchedule_endClaims p _).trans (hinbox _)).calendarSound ?_
  exact (hstore _ _).calendarSound hauthority

/-! ### Edges (R115 to R125) -/

theorem calendarSound_stepEdge (a : Arming) (compensation : Nat) (t : Stamp) (stored : Bool) {s : State}
    (hs : CalendarSound s) : CalendarSound (stepEdge a compensation t stored s) := by
  have hended : SameSchedule s (s.putArming none) := ⟨rfl, rfl⟩
  obtain ⟨htime, hlist, -⟩ := id hs
  unfold stepEdge
  dsimp only
  split
  · exact (hended.trans (sameSchedule_reportNow _ _ _)).calendarSound hs
  · have hfrac : 0 < unitsPerNs := by decide
    have hstepped : CalendarSound (alignStep (alignValue a.target compensation) (s.putArming none)) := by
      unfold alignStep
      exact calendarSound_changeTime _ _ ⟨htime, hlist⟩ (alignValue_inRange _ _) hfrac
    exact (sameSchedule_reportNow _ _ _).calendarSound hstepped

theorem calendarSound_alignEdge (l : EvLine) (compensation : Nat) (t : Stamp) (pol : Polarity) (stored : Bool)
    {s : State} (hs : CalendarSound s) : CalendarSound (alignEdge l compensation t pol stored s) := by
  unfold alignEdge
  split
  · exact hs
  · split
    · split
      · exact calendarSound_stepEdge _ _ _ _ hs
      · exact (sameSchedule_report _ _ _ s).calendarSound hs
    · exact hs

theorem calendarSound_recognizedEdge (l : EvLine) (level : Level) {s : State} (hs : CalendarSound s) :
    CalendarSound (recognizedEdge l level s) := by
  have hlevel : SameSchedule s (s.putLine l { s.events.lines.get l with level := level }) := ⟨rfl, rfl⟩
  unfold recognizedEdge
  dsimp only
  split
  · exact hlevel.calendarSound hs
  · split
    · exact calendarSound_alignEdge _ _ _ _ _ ((hlevel.trans (sameSchedule_capture _ _ _ _ _)).calendarSound hs)
    · exact hlevel.calendarSound hs

/-! ### Transactions and resets -/

theorem sameSchedule_putPort (s : State) (p : Port) (x : HostPort) : SameSchedule s (s.putPort p x) := ⟨rfl, rfl⟩

theorem sameSchedule_commandWrite {p : Port} {x : Transaction} {s t : State}
    (h : execCommandWrite p x s = .next t) : SameSchedule s t := by
  unfold execCommandWrite at h
  split at h
  · split at h <;> cases h <;> exact sameSchedule_putPort s p _
  · cases h
    exact sameSchedule_putPort s p _

theorem sameSchedule_responseRead {p : Port} {x : Transaction} {s t : State}
    (h : execResponseRead p x s = .next t) : SameSchedule s t := by
  unfold execResponseRead at h
  split at h
  · split at h <;> cases h <;> exact sameSchedule_putPort s p _
  · cases h
    exact sameSchedule_putPort s p _

theorem calendarSound_unknownCommand {p : Port} {s t : State} (hs : CalendarSound s)
    (h : execUnknownCommand p s = .next t) : CalendarSound t := by
  unfold execUnknownCommand at h
  split at h
  · split at h <;> cases h
    · exact hs
    · exact (sameSchedule_putPort _ _ _).calendarSound (calendarSound_settleTick hs)
  · cases h
    exact hs

theorem calendarSound_edgeRecognized {l : EvLine} {level : Level} {held : Nat} {s t : State}
    (hs : CalendarSound s) (h : execEdgeRecognized l level held s = .next t) : CalendarSound t := by
  unfold execEdgeRecognized at h
  split at h <;> cases h
  · exact calendarSound_recognizedEdge _ _ (calendarSound_settleTick hs)
  · exact hs

theorem calendarSound_portReset {p : Port} {s t : State} (hs : CalendarSound s)
    (h : execPortReset p s = .next t) : CalendarSound t := by
  have hreset : CalendarSound (assertPortReset p s.settleTick) :=
    (sameSchedule_putPort _ _ _).calendarSound (calendarSound_settleTick hs)
  unfold execPortReset at h
  dsimp only at h
  split at h <;> cases h
  · exact calendarSound_endSession p hreset
  · exact hreset

theorem sameSchedule_resetNegation {pins : PerEv Level} {s t : State} (h : execResetNegation pins s = .next t) :
    SameSchedule s t := by
  unfold execResetNegation at h
  split at h <;> cases h <;> exact ⟨rfl, rfl⟩

theorem calendarSound_deviceReset (s : State) : CalendarSound (deviceReset s) := by
  obtain ⟨-, -, -, -, hreset, -⟩ := resetIsSound
  have hsame : SameSchedule State.reset (deviceReset s) := ⟨rfl, rfl⟩
  exact hsame.calendarSound hreset

/-! ### The step -/

theorem calendarSound_execution {row : CommandRow} {body : Port → List Byte → State → Reply} {p : Port}
    {s t : State} (hs : CalendarSound s) (h : execution row body p s = .next t)
    (hbody : ∀ ps u, CalendarSound u → CalendarSound (body p ps u).state) : CalendarSound t := by
  rcases execution_cases h with ⟨c, d, o, -, -, rfl⟩ | ⟨-, rfl⟩
  · refine (sameSchedule_putPort _ _ _).calendarSound ?_
    have hsettled := calendarSound_settleTick hs
    rcases gate_cases row p c.params (body p c.params) s.settleTick with ⟨r, hr⟩ | ⟨hf, -, -⟩
    · rw [hr]
      exact hsettled
    · rw [hf]
      exact hbody c.params _ hsettled
  · exact hs

theorem calendarSound_execution_same {row : CommandRow} {body : Port → List Byte → State → Reply} {p : Port}
    {s t : State} (hs : CalendarSound s) (h : execution row body p s = .next t)
    (hbody : ∀ ps u, SameSchedule u (body p ps u).state) : CalendarSound t :=
  calendarSound_execution hs h fun ps u => (hbody ps u).calendarSound

theorem exec_calendarSound {i : Instr} {s t : State} (hs : CalendarSound s) (h : exec i s = .next t) :
    CalendarSound t := by
  have settled := calendarSound_settleTick hs
  cases i with
  | commandWrite p x => exact (sameSchedule_commandWrite h).calendarSound hs
  | responseRead p x => exact (sameSchedule_responseRead h).calendarSound hs
  | unknownCommand p => exact calendarSound_unknownCommand hs h
  | readTime p => exact calendarSound_execution_same hs h fun _ u => .refl u
  | loadTime p => exact calendarSound_execution hs h fun ps _ => calendarSound_loadTime p ps
  | stepTime p => exact calendarSound_execution hs h fun ps _ => calendarSound_stepTime p ps
  | setRate p => exact calendarSound_execution hs h fun ps _ => calendarSound_setRate p ps
  | startSlew p => exact calendarSound_execution hs h fun ps _ => calendarSound_startSlew p ps
  | stopSlew p => exact calendarSound_execution hs h fun ps _ => calendarSound_stopSlew p ps
  | refclkAdvance => exact calendarSound_refclkAdvance hs h
  | elapsedTick => exact Host.Outcome.next.inj h ▸ settled
  | slewEnd => exact Host.Outcome.next.inj h ▸ calendarSound_slewEnd settled
  | claimAuthority p => exact calendarSound_execution_same hs h (sameSchedule_claimAuthority p)
  | renewAuthority p => exact calendarSound_execution_same hs h (sameSchedule_renewAuthority p)
  | releaseAuthority p => exact calendarSound_execution hs h fun ps _ => calendarSound_releaseAuthority p ps
  | withdrawClaim p => exact calendarSound_execution_same hs h (sameSchedule_withdrawClaim p)
  | leaseExpiry => exact Host.Outcome.next.inj h ▸ calendarSound_leaseExpiry settled
  | openDraft p => exact calendarSound_execution_same hs h (sameSchedule_openDraft p)
  | append p => exact calendarSound_execution_same hs h (sameSchedule_append p)
  | abandonDraft p => exact calendarSound_execution_same hs h (sameSchedule_abandonDraft p)
  | setQuota p => exact calendarSound_execution_same hs h (sameSchedule_setQuota p)
  | scheduleAt p => exact calendarSound_execution hs h fun ps _ => calendarSound_scheduleAt p ps
  | scheduleAfter p => exact calendarSound_execution hs h fun ps _ => calendarSound_scheduleAfter p ps
  | retime p => exact calendarSound_execution hs h fun ps _ => calendarSound_retime p ps
  | cancel p => exact calendarSound_execution hs h fun ps _ => calendarSound_cancel p ps
  | queryEntry p => exact calendarSound_execution_same hs h (sameSchedule_queryEntry p)
  | holdReleases p => exact calendarSound_execution hs h fun ps _ => calendarSound_holdReleases p ps
  | resumeReleases p => exact calendarSound_execution hs h fun _ _ => calendarSound_resume
  | fetchHead p => exact calendarSound_execution_same hs h (sameSchedule_fetchHead p)
  | readPayload p => exact calendarSound_execution_same hs h (sameSchedule_readPayload p)
  | discardHead p => exact calendarSound_execution_same hs h (sameSchedule_discardHead p)
  | flushInbox p => exact calendarSound_execution_same hs h fun _ u => sameSchedule_flush p u
  | setInbox p => exact calendarSound_execution_same hs h (sameSchedule_setInbox p)
  | claimLine p => exact calendarSound_execution_same hs h (sameSchedule_claimLine p)
  | releaseLine p => exact calendarSound_execution_same hs h (sameSchedule_releaseLine p)
  | queryLines p => exact calendarSound_execution_same hs h fun _ u => .refl u
  | takeCapture p => exact calendarSound_execution_same hs h (sameSchedule_takeCapture p)
  | armAlign p => exact calendarSound_execution_same hs h (sameSchedule_armAlign p)
  | disarmAlign p => exact calendarSound_execution_same hs h (sameSchedule_disarmAlign p)
  | edgeRecognized l level held => exact calendarSound_edgeRecognized hs h
  | driveLine p => exact calendarSound_execution_same hs h (sameSchedule_driveLine p)
  | pulseEnd o => exact Host.Outcome.next.inj h ▸ (sameSchedule_pulseEnd o _).calendarSound settled
  | takeReport p => exact calendarSound_execution_same hs h (sameSchedule_takeReport p)
  | setReportMask p => exact calendarSound_execution_same hs h (sameSchedule_setReportMask p)
  | attach p => exact calendarSound_execution_same hs h (sameSchedule_attach p)
  | detach p => exact calendarSound_execution hs h fun _ _ => calendarSound_endSession p
  | status p => exact calendarSound_execution_same hs h fun _ u => .refl u
  | portReset p => exact calendarSound_portReset hs h
  | deviceReset => exact Host.Outcome.next.inj h ▸ calendarSound_deviceReset s
  | resetNegation pins => exact (sameSchedule_resetNegation h).calendarSound hs
  | portResetNegation p => exact Host.Outcome.next.inj h ▸ (sameSchedule_putPort s p _).calendarSound hs

/-- Settles O57: entries are armed sound and at their place, and whatever makes an entry due while RUNNING, a
change of Common Time, a resume, an admission or a new release time, releases it within the same event. -/
theorem calendarStaysSound : Obligations.CalendarStaysSound := by
  intro s t hs h
  unfold step at h
  split at h
  · exact Host.Outcome.next.inj h ▸ hs
  · rename_i i rest _
    have hrest : SameSchedule s { s with pending := rest } := ⟨rfl, rfl⟩
    exact exec_calendarSound (hrest.calendarSound hs) h

end Sys2Proof.Machine

/-! Admission (R69 to R72): Table 4-2 as ordered checks, each row against the condition that the table gives, and
the entry admitted when every row passes. -/

namespace Sys2Proof.Machine

open Claims

/-! ### Ordered tables -/

theorem refusesWith_cons {cond : Prop} {r r' : Result} {rest : List (Prop × Result)} :
    RefusesWith ((cond, r') :: rest) r ↔ cond ∧ r' = r ∨ ¬ cond ∧ RefusesWith rest r := by
  constructor
  · rintro ⟨front, back, cond', hsplit, hcond, hfront⟩
    cases front with
    | nil =>
      obtain ⟨hrow, -⟩ := List.cons.inj hsplit
      cases hrow
      exact .inl ⟨hcond, rfl⟩
    | cons x front =>
      obtain ⟨rfl, hrest⟩ := List.cons.inj hsplit
      exact .inr ⟨hfront _ (List.mem_cons_self ..), front, back, cond', hrest, hcond,
        fun y hy => hfront y (List.mem_cons_of_mem _ hy)⟩
  · rintro (⟨hcond, rfl⟩ | ⟨hnot, front, back, cond', rfl, hcond, hfront⟩)
    · exact ⟨[], rest, cond, rfl, hcond, fun x hx => by cases hx⟩
    · exact ⟨(cond, r') :: front, back, cond', rfl, hcond, List.forall_mem_cons.2 ⟨hnot, hfront⟩⟩

theorem not_refusesWith_nil {r : Result} : ¬ RefusesWith [] r := by
  rintro ⟨front, back, cond, hsplit, -⟩
  simp at hsplit

theorem passes_append {front back : List (Prop × Result)} :
    Passes (front ++ back) ↔ Passes front ∧ Passes back := List.forall_mem_append

theorem passes_cons {cond : Prop} {r : Result} {rest : List (Prop × Result)} :
    Passes ((cond, r) :: rest) ↔ ¬ cond ∧ Passes rest := List.forall_mem_cons

theorem passes_singleton {cond : Prop} {r : Result} : Passes [(cond, r)] ↔ ¬ cond :=
  List.forall_mem_singleton

/-- A table in two parts refuses in the first, or passes it and refuses in the second. -/
theorem refusesWith_append {front back : List (Prop × Result)} {r : Result} :
    RefusesWith (front ++ back) r ↔ RefusesWith front r ∨ Passes front ∧ RefusesWith back r := by
  induction front with
  | nil => simp [not_refusesWith_nil]
  | cons x front ih =>
    obtain ⟨cond, r'⟩ := x
    rw [List.cons_append, refusesWith_cons, refusesWith_cons, ih, passes_cons, and_or_left, or_assoc, and_assoc]

theorem refusesWith_singleton {cond : Prop} {r r' : Result} :
    RefusesWith [(cond, r')] r ↔ cond ∧ r' = r := by
  rw [refusesWith_cons, or_iff_left fun h => not_refusesWith_nil h.2]

/-- A row that computes its condition. -/
abbrev Decides (check : Bool × Result) (step : Prop × Result) : Prop :=
  (check.1 = true ↔ step.1) ∧ check.2 = step.2

/-- Checks that decide a table row by row refuse as the table does. -/
theorem firstFailing_of_refusesWith {checks : List (Bool × Result)} {steps : List (Prop × Result)}
    (h : List.Forall₂ Decides checks steps) {r : Result} (hr : RefusesWith steps r) :
    firstFailing checks = some r := by
  induction h with
  | nil => exact absurd hr not_refusesWith_nil
  | @cons check step _ _ hrow _ ih =>
    obtain ⟨hcond, hresult⟩ := hrow
    rw [firstFailing_cons]
    rcases refusesWith_cons.1 hr with ⟨hholds, rfl⟩ | ⟨hnot, hrest⟩
    · rw [if_pos (hcond.2 hholds), hresult]
    · rw [if_neg fun hb => hnot (hcond.1 hb), ih hrest]

/-- They pass as the table does. -/
theorem firstFailing_of_passes {checks : List (Bool × Result)} {steps : List (Prop × Result)}
    (h : List.Forall₂ Decides checks steps) (hpass : Passes steps) : firstFailing checks = none := by
  induction h with
  | nil => rfl
  | @cons check step _ _ hrow _ ih =>
    obtain ⟨hnot, hrest⟩ := passes_cons.1 hpass
    rw [firstFailing_cons, if_neg fun hb => hnot (hrow.1.1 hb), ih hrest]

/-! ### Codes and flags of the SCHEDULE block (Tables 10-1 and 10-5) -/

theorem flagSet_iff {c : Command} {k : Nat} : FlagSet c k ↔ (byteField c.params 9).getLsbD k = true := by
  rw [BitVec.getLsbD, Nat.testBit_eq_decide_div_mod_eq, decide_eq_true_iff]

theorem byte_eq_iff {b : Byte} {n : Nat} (hn : n < 256) : b = BitVec.ofNat 8 n ↔ b.toNat = n := by
  rw [← BitVec.toNat_inj, BitVec.toNat_ofNat, Nat.mod_eq_of_lt hn]

theorem kindDeliver_iff {ps : List Byte} : kindDeliver ps = true ↔ byteField ps 8 = 1 :=
  beq_iff_eq.trans (byte_eq_iff (by decide)).symm

theorem kindLine_iff {ps : List Byte} : kindLine ps = true ↔ byteField ps 8 = 2 :=
  beq_iff_eq.trans (byte_eq_iff (by decide)).symm

theorem targetsOf_eq_none {b : Byte} : targetsOf b = none ↔ b.toNat = 0 ∨ 15 < b.toNat := by
  unfold targetsOf
  split
  · simp only [true_iff]
    omega
  · simp only [reduceCtorEq, false_iff]
    omega

/-- A target byte names port Pn by its bit n. -/
theorem targetsOf_get {b : Byte} {ts : PerPort Bool} (h : targetsOf b = some ts) (q : Port) :
    ts.get q = b.getLsbD q.code.toNat := by
  unfold targetsOf at h
  split at h
  · cases h
  · cases h
    cases q <;> rfl

theorem outLineOf_code (o : OutLine) : outLineOf o.code = some o := by
  cases o <;> rfl

theorem outLineOf_eq_some {b : Byte} {o : OutLine} : outLineOf b = some o ↔ b = o.code := by
  refine ⟨fun h => ?_, fun h => h ▸ outLineOf_code o⟩
  unfold outLineOf lineOf at h
  split at h
  · cases h
    rename_i hline
    split at hline <;> cases hline <;> exact (byte_eq_iff (by decide)).2 ‹_›
  · cases h

/-- Codes 4 to 7 are those of the output lines (Table 10-1). -/
theorem outLineOf_eq_none {b : Byte} : outLineOf b = none ↔ b.toNat < 4 ∨ 7 < b.toNat := by
  constructor
  · intro h
    by_contra hrange
    have hcode (o : OutLine) : b.toNat ≠ o.code.toNat := fun hb => by
      rw [outLineOf_eq_some.2 (BitVec.eq_of_toNat_eq hb)] at h
      cases h
    have h0 : b.toNat ≠ 4 := hcode .out0
    have h1 : b.toNat ≠ 5 := hcode .out1
    have h2 : b.toNat ≠ 6 := hcode .out2
    have h3 : b.toNat ≠ 7 := hcode .out3
    omega
  · intro hrange
    cases h : outLineOf b with
    | none => rfl
    | some o =>
      rw [outLineOf_eq_some.1 h] at hrange
      cases o <;> revert hrange <;> decide

theorem actionOf_eq_none {b : Byte} {w : Nat} : actionOf b w = none ↔ b.toNat < 1 ∨ 4 < b.toNat := by
  unfold actionOf
  split <;> simp_all
  omega

theorem actionOf_eq_some {b : Byte} {w : Nat} {a : LineAction} (h : actionOf b w = some a) :
    b = a.code ∧ ∀ w', a = .pulse w' → w' = w := by
  unfold actionOf at h
  split at h <;> cases h <;> refine ⟨(byte_eq_iff (by decide)).2 ‹_›, fun w' hw => ?_⟩ <;> cases hw
  rfl

/-- Of the four actions PULSE alone has a width that may be out of range (R70). -/
theorem action_width_bad {b : Byte} {w : Nat} :
    (!(actionOf b w).all (·.widthInRange)) = true ↔ b.toNat = 4 ∧ (w < 1 ∨ 1000000 < w) := by
  unfold actionOf
  split <;> simp_all [LineAction.widthInRange]

/-! ### Steps 1 to 5 of Table 4-2 -/

section

variable {c : Command}

theorem kind_row : ((!kindDeliver c.params && !kindLine c.params) || undefinedFlag c.params) = true ↔
    byteField c.params 8 ≠ 1 ∧ byteField c.params 8 ≠ 2 ∨ FlagSet c 3 ∨ FlagSet c 6 ∨ FlagSet c 7 := by
  simp only [undefinedFlag, Bool.or_eq_true, Bool.and_eq_true, Bool.not_eq_true', ← Bool.not_eq_true,
    kindDeliver_iff, kindLine_iff, flagSet_iff, or_assoc, ne_eq]

theorem periodPresent_iff : periodPresent c.params = true ↔ FlagSet c 4 := flagSet_iff.symm

theorem remainingPresent_iff : remainingPresent c.params = true ↔ FlagSet c 5 := flagSet_iff.symm

theorem period_range_row :
    (periodPresent c.params && decide (999999999 < (periodField c.params).ns ∨
      ¬ (periodField c.params).atOrBefore maxPeriod)) = true ↔
    FlagSet c 4 ∧ (999999999 < field c.params 12 4 ∨
      65535000000000 < field c.params 10 2 * 1000000000 + field c.params 12 4) := by
  rw [Bool.and_eq_true, periodPresent_iff, decide_eq_true_iff]
  refine and_congr_right fun _ => ?_
  unfold Point.atOrBefore periodField maxPeriod
  dsimp only
  omega

theorem period_short_row : (periodPresent c.params && decide ((periodField c.params).toNs < minPeriodNs)) = true ↔
    FlagSet c 4 ∧ field c.params 10 2 * 1000000000 + field c.params 12 4 < 10000 := by
  rw [Bool.and_eq_true, periodPresent_iff, decide_eq_true_iff]
  rfl

theorem remaining_period_row : (remainingPresent c.params && !periodPresent c.params) = true ↔
    FlagSet c 5 ∧ ¬ FlagSet c 4 := by
  rw [Bool.and_eq_true, remainingPresent_iff, Bool.not_eq_true', ← Bool.not_eq_true, periodPresent_iff]

theorem remaining_zero_row : (remainingPresent c.params && decide (field c.params 16 2 = 0)) = true ↔
    FlagSet c 5 ∧ field c.params 16 2 = 0 := by
  rw [Bool.and_eq_true, remainingPresent_iff, decide_eq_true_iff]

theorem targets_row : (kindDeliver c.params && (targetsOf (byteField c.params 18)).isNone) = true ↔
    byteField c.params 8 = 1 ∧ ((byteField c.params 18).toNat = 0 ∨ 15 < (byteField c.params 18).toNat) := by
  rw [Bool.and_eq_true, kindDeliver_iff, Option.isNone_iff_eq_none, targetsOf_eq_none]

theorem line_row : (kindLine c.params && ((outLineOf (byteField c.params 21)).isNone ||
      (actionOf (byteField c.params 22) (field c.params 23 4)).isNone)) = true ↔
    byteField c.params 8 = 2 ∧ ((byteField c.params 21).toNat < 4 ∨ 7 < (byteField c.params 21).toNat ∨
      (byteField c.params 22).toNat < 1 ∨ 4 < (byteField c.params 22).toNat) := by
  rw [Bool.and_eq_true, kindLine_iff, Bool.or_eq_true, Option.isNone_iff_eq_none, Option.isNone_iff_eq_none,
    outLineOf_eq_none, actionOf_eq_none, or_assoc]

theorem width_row : (kindLine c.params &&
      !((actionOf (byteField c.params 22) (field c.params 23 4)).all (·.widthInRange))) = true ↔
    byteField c.params 8 = 2 ∧ (byteField c.params 22).toNat = 4 ∧
      (field c.params 23 4 < 1 ∨ 1000000 < field c.params 23 4) := by
  rw [Bool.and_eq_true, kindLine_iff, action_width_bad]

/-- The model's checks of the fields decide the rows of the table, one by one. -/
theorem fieldChecks_decide {timeBad : Prop} {b : Bool} (hb : b = true ↔ timeBad) :
    ∃ checks, scheduleFieldChecks c.params b = firstFailing checks ∧
      List.Forall₂ Decides checks (fieldSteps c timeBad) :=
  ⟨_, rfl, .cons ⟨kind_row, rfl⟩ <| .cons ⟨hb, rfl⟩ <| .cons ⟨period_range_row, rfl⟩ <|
    .cons ⟨period_short_row, rfl⟩ <| .cons ⟨remaining_period_row, rfl⟩ <| .cons ⟨remaining_zero_row, rfl⟩ <|
    .cons ⟨targets_row, rfl⟩ <| .cons ⟨line_row, rfl⟩ <| .cons ⟨width_row, rfl⟩ .nil⟩

theorem scheduleFieldChecks_refuse {timeBad : Prop} {b : Bool} {r : Result} (hb : b = true ↔ timeBad)
    (h : RefusesWith (fieldSteps c timeBad) r) : scheduleFieldChecks c.params b = some r := by
  obtain ⟨checks, hchecks, hrows⟩ := fieldChecks_decide (c := c) hb
  rw [hchecks, firstFailing_of_refusesWith hrows h]

theorem scheduleFieldChecks_pass {timeBad : Prop} {b : Bool} (hb : b = true ↔ timeBad)
    (h : Passes (fieldSteps c timeBad)) : scheduleFieldChecks c.params b = none := by
  obtain ⟨checks, hchecks, hrows⟩ := fieldChecks_decide (c := c) hb
  rw [hchecks, firstFailing_of_passes hrows h]

/-- A block that passes them describes a DELIVER entry with a target byte, or a LINE entry with a line and an
action. -/
theorem kind_of_passes {timeBad : Prop} (h : Passes (fieldSteps c timeBad)) :
    (kindDeliver c.params = true ∧ byteField c.params 8 = 1 ∧ ∃ ts, targetsOf (byteField c.params 18) = some ts) ∨
      (kindDeliver c.params = false ∧ byteField c.params 8 = 2 ∧
        (∃ o, outLineOf (byteField c.params 21) = some o) ∧
        ∃ a, actionOf (byteField c.params 22) (field c.params 23 4) = some a) := by
  unfold fieldSteps at h
  dsimp only at h
  simp only [passes_cons] at h
  obtain ⟨hkind, -, -, -, -, -, htargets, hline, -⟩ := h
  rw [← targetsOf_eq_none] at htargets
  rw [← or_assoc, ← outLineOf_eq_none, ← actionOf_eq_none (w := field c.params 23 4)] at hline
  simp only [Option.ne_none_iff_exists', not_and, not_or] at htargets hline
  by_cases hdeliver : byteField c.params 8 = 1
  · exact .inl ⟨kindDeliver_iff.2 hdeliver, hdeliver, htargets hdeliver⟩
  · have htwo : byteField c.params 8 = 2 := by
      by_contra hneither
      exact hkind (.inl ⟨hdeliver, hneither⟩)
    obtain ⟨hout, haction⟩ := hline htwo
    exact .inr ⟨by rwa [← Bool.not_eq_true, kindDeliver_iff], htwo, hout, haction⟩

end

/-! ### Step 8: the message or the line -/

/-- The message that a SCHEDULE block names, in the words of the table. -/
theorem objectNamed_iff {c : Command} {u : State} {h : Handle} (hh : handleField c.params 19 = some h) {m : Message} :
    (∃ i : RecordNo, (byteField c.params 19).toNat = i.val ∧ u.store.records[i].gen = byteField c.params 20 ∧
      (u.store.records[i].content = .draft m ∨ ∃ k, u.store.records[i].content = .sealed m k)) ↔
    u.store.named h = some m := by
  obtain ⟨hrecord, hgen⟩ := handleField_eq_some.1 hh
  rw [Store.named_eq_some]
  constructor
  · rintro ⟨i, hi, hg, hcontent⟩
    obtain rfl : i = h.record := Fin.ext (hi.symm.trans hrecord)
    exact ⟨hg.trans hgen, hcontent⟩
  · rintro ⟨hg, hcontent⟩
    exact ⟨h.record, hrecord, hg.trans hgen.symm, hcontent⟩

section

variable {p : Port} {c : Command} {u : State} {h : Handle} {m : Message} {o : OutLine}

theorem objectCheck_range (hkind : kindDeliver c.params = true) (hh : handleField c.params 19 = none) :
    scheduleObjectCheck p c.params u = some .range := by
  unfold scheduleObjectCheck
  rw [if_pos hkind, hh]

theorem objectCheck_stale (hkind : kindDeliver c.params = true) (hh : handleField c.params 19 = some h)
    (hnamed : u.store.named h = none) : scheduleObjectCheck p c.params u = some .staleHandle := by
  unfold scheduleObjectCheck
  rw [if_pos hkind, hh]
  simp only [hnamed]

theorem objectCheck_message (hkind : kindDeliver c.params = true) (hh : handleField c.params 19 = some h)
    (hnamed : u.store.named h = some m) :
    scheduleObjectCheck p c.params u = if m.sender = p then none else some .notOwner := by
  unfold scheduleObjectCheck
  rw [if_pos hkind, hh]
  simp only [hnamed]

theorem objectCheck_line (hkind : kindDeliver c.params = false) (ho : outLineOf (byteField c.params 21) = some o) :
    scheduleObjectCheck p c.params u =
      if u.events.outOwner.get o = some p then none else some .lineNotClaimed := by
  unfold scheduleObjectCheck
  rw [if_neg (by rw [hkind]; exact Bool.false_ne_true), ho]

end

section

variable {p : Port} {c : Command} {u : State} {timeBad : Prop} {r : Result}

/-- The line of a LINE block is the one whose code it carries. -/
theorem lineNotClaimed_iff {o : OutLine} (ho : outLineOf (byteField c.params 21) = some o) :
    (∀ out : OutLine, byteField c.params 21 = out.code → u.events.outOwner.get out ≠ some p) ↔
      u.events.outOwner.get o ≠ some p := by
  refine ⟨fun h => h o (outLineOf_eq_some.1 ho), fun h out hout => ?_⟩
  rw [outLineOf_eq_some.2 hout] at ho
  exact Option.some.inj ho ▸ h

theorem scheduleObjectCheck_refuse (hfields : Passes (fieldSteps c timeBad))
    (h : RefusesWith (objectSteps p c u) r) : scheduleObjectCheck p c.params u = some r := by
  unfold objectSteps at h
  dsimp only at h
  rw [refusesWith_cons, refusesWith_cons, refusesWith_cons, refusesWith_singleton, ← handleField_eq_none] at h
  rcases kind_of_passes hfields with ⟨hkind, hone, -⟩ | ⟨hkind, htwo, ⟨o, ho⟩, -⟩
  · simp only [hone, true_and, not_true_eq_false, false_and, and_false, or_false] at h
    rcases h with ⟨hrange, rfl⟩ | ⟨hhandle, h⟩
    · exact objectCheck_range hkind hrange
    obtain ⟨x, hx⟩ := Option.ne_none_iff_exists'.1 hhandle
    simp only [objectNamed_iff hx, not_exists, not_and] at h
    rcases h with ⟨hstale, rfl⟩ | ⟨hnamed, howner, rfl⟩
    · exact objectCheck_stale hkind hx (Option.eq_none_iff_forall_ne_some.2 hstale)
    · obtain ⟨m, hm⟩ := not_forall_not.1 hnamed
      rw [objectCheck_message hkind hx hm, if_neg (howner m hm)]
  · have hnot : byteField c.params 8 ≠ 1 := by rw [htwo]; decide
    simp only [hnot, false_and, not_false_eq_true, true_and, false_or] at h
    obtain ⟨hclaim, rfl⟩ := h
    rw [objectCheck_line hkind ho, if_neg ((lineNotClaimed_iff ho).1 hclaim)]

theorem scheduleObjectCheck_pass (hfields : Passes (fieldSteps c timeBad)) (h : Passes (objectSteps p c u)) :
    scheduleObjectCheck p c.params u = none := by
  unfold objectSteps at h
  dsimp only at h
  simp only [passes_cons, ← handleField_eq_none] at h
  obtain ⟨hhandle, -, howner, hclaim, -⟩ := h
  rcases kind_of_passes hfields with ⟨hkind, hone, -⟩ | ⟨hkind, htwo, ⟨o, ho⟩, -⟩
  · obtain ⟨x, hx⟩ := Option.ne_none_iff_exists'.1 fun hnone => hhandle ⟨hone, hnone⟩
    simp only [hone, true_and, not_not, objectNamed_iff hx] at howner
    obtain ⟨m, hm, hsender⟩ := howner
    rw [objectCheck_message hkind hx hm, if_pos hsender]
  · have hnot : byteField c.params 8 ≠ 1 := by rw [htwo]; decide
    simp only [hnot, not_false_eq_true, true_and] at hclaim
    rw [objectCheck_line hkind ho, if_pos (not_not.1 fun hne => hclaim ((lineNotClaimed_iff ho).2 hne))]

/-- A block that passes steps 1 to 8 describes an action, and a message in use for DELIVER (R49, R71). -/
theorem entryActionField_of_passes (hfields : Passes (fieldSteps c timeBad)) (h : Passes (objectSteps p c u)) :
    ∃ a, entryActionField c.params = some a ∧ ActionIs c a ∧
      ∀ ts x, a = .deliver ts x → ∃ m, u.store.named x = some m := by
  unfold objectSteps at h
  dsimp only at h
  simp only [passes_cons, ← handleField_eq_none] at h
  obtain ⟨hhandle, hstale, -⟩ := h
  unfold entryActionField
  rcases kind_of_passes hfields with ⟨hkind, hone, ts, hts⟩ | ⟨hkind, htwo, ⟨o, ho⟩, a, ha⟩
  · obtain ⟨x, hx⟩ := Option.ne_none_iff_exists'.1 fun hnone => hhandle ⟨hone, hnone⟩
    obtain ⟨hrecord, hgen⟩ := handleField_eq_some.1 hx
    simp only [hone, true_and, not_not, objectNamed_iff hx] at hstale
    rw [if_pos hkind, hts, hx]
    refine ⟨_, rfl, ⟨hone, hrecord, hgen, targetsOf_get hts⟩, fun ts' x' hsame => ?_⟩
    obtain ⟨-, rfl⟩ := EntryAction.deliver.inj hsame
    exact hstale
  · rw [if_neg (by rw [hkind]; exact Bool.false_ne_true), ho, ha]
    obtain ⟨hcode, hwidth⟩ := actionOf_eq_some ha
    exact ⟨_, rfl, ⟨htwo, outLineOf_eq_some.1 ho, hcode, hwidth⟩, nofun⟩

end

/-! ### The admission (R71, R72) -/

theorem joined_eq (u : State) (i : RecordNo) (r : Point) (armed : List RecordNo) :
    joined u i r armed = u.calendar.insertArmed i r armed := (Calendar.insertArmed_eq ..).symm

/-- An entry armed, whole. -/
theorem Calendar.arm_eq (c : Calendar) (i : RecordNo) (e : Entry) (r : Point) :
    c.arm i e r = { c with
      records := c.records.set i ⟨c.records[i].gen, .armed { e with release := r, sequence := c.nextSequence }⟩
      armed := c.insertArmed i r (c.armed.erase i)
      nextSequence := c.nextSequence + 1 } := rfl

/-- An entry admitted, whole. -/
theorem Calendar.take_whole {c : Calendar} {i : RecordNo} (rest : List RecordNo) (e : Entry) (r : Point)
    (hi : i ∉ c.armed) :
    c.take i rest e r = { c with
      records := c.records.set i
        ⟨c.records[i].gen + 1, .armed { e with release := r, sequence := c.nextSequence }⟩
      armed := c.insertArmed i r c.armed
      freeRecords := rest
      nextSequence := c.nextSequence + 1 } := by
  have hgen : (c.taken i rest).records[i].gen = c.records[i].gen + 1 := by
    change (c.putRecord i _).records[i].gen = _
    rw [Calendar.putRecord_get, if_pos rfl]
  have hrecords : (c.taken i rest).records.set i
        ⟨c.records[i].gen + 1, .armed { e with release := r, sequence := c.nextSequence }⟩ =
      c.records.set i ⟨c.records[i].gen + 1, .armed { e with release := r, sequence := c.nextSequence }⟩ :=
    Vector.set_set ..
  have harmed : (c.taken i rest).insertArmed i r c.armed = c.insertArmed i r c.armed :=
    Calendar.insertArmed_congr fun j hj => c.taken_releaseOf_of_ne rest fun hji => hi (hji ▸ hj)
  rw [Calendar.take_eq, Calendar.arm_eq, hgen]
  change ({ c.taken i rest with
    records := (c.taken i rest).records.set i
      ⟨c.records[i].gen + 1, .armed { e with release := r, sequence := c.nextSequence }⟩
    armed := (c.taken i rest).insertArmed i r (c.armed.erase i)
    nextSequence := c.nextSequence + 1 } : Calendar) = _
  rw [hrecords, List.erase_of_not_mem hi, harmed]
  rfl

theorem scheduled_eq (p : Port) (c : Command) (a : EntryAction) (r : Point) (seq : BitVec 32) :
    { scheduledEntry p c.params a with release := r, sequence := seq } = scheduled p c a r seq := by
  unfold scheduledEntry scheduled periodPresent remainingPresent periodField
  simp only [flagSet_iff, Bool.decide_eq_true]

theorem takesReference_takeReference {st : Store} {j : RecordNo} {m : Message}
    (h : st.records[j].content = .draft m ∨ ∃ n, st.records[j].content = .sealed m n) :
    TakesReference j st (st.takeReference j) := by
  rcases h with hdraft | ⟨n, hsealed⟩
  · refine ⟨.sealed m 1, Store.takeReference_draft hdraft, fun m' hm => ?_, fun m' n' hm => ?_⟩
    · rw [hdraft] at hm
      cases hm
      rfl
    · rw [hdraft] at hm
      cases hm
  · refine ⟨.sealed m (n + 1), Store.takeReference_sealed hsealed, fun m' hm => ?_, fun m' n' hm => ?_⟩
    · rw [hsealed] at hm
      cases hm
    · rw [hsealed] at hm
      cases hm
      rfl

/-- The admission of a described entry into the record at the head of the queue. -/
theorem admitted_carryOutAdmission {p : Port} {c : Command} {u : State} {i : RecordNo} {rest : List RecordNo}
    {a : EntryAction} (r : Point) (late : Bool) (hcomplete : ArmedListComplete u.calendar)
    (hfree : u.calendar.freeRecords = i :: rest) (ha : ActionIs c a)
    (hmessage : ∀ ts x, a = .deliver ts x → ∃ m, u.store.named x = some m) :
    ∃ answer t, carryOutAdmission i rest (scheduledEntry p c.params a) r late u = okay t answer ∧
      Admitted p c r late u answer t := by
  have hi := Calendar.not_mem_armed_of_free hcomplete hfree
  let w := takeEntryReference a { u with calendar := u.calendar.take i rest (scheduledEntry p c.params a) r }
  have htake := u.calendar.take_whole rest (scheduledEntry p c.params a) r hi
  rw [scheduled_eq] at htake
  have hw : w = { u with
      store := w.store
      calendar := u.calendar.take i rest (scheduledEntry p c.params a) r } := by
    cases a <;> rfl
  refine ⟨_, _, rfl, i, rest, a, w, hfree, ha, ?_, ?_, ?_, ?_⟩
  · rfl
  · rw [joined_eq, ← htake]
    exact hw
  · cases a with
    | deliver ts x =>
      obtain ⟨m, hm⟩ := hmessage ts x rfl
      exact takesReference_takeReference (Store.named_eq_some.1 hm).2
    | line out act => rfl
  · change releaseIfDue late i r w = _
    have hrunning : w.running ↔ u.running := by
      rw [hw]
      rfl
    have hnow : w.time = u.time := by
      rw [hw]
    exact if_congr (and_congr hrunning (by rw [hnow])) rfl rfl

/-! ### SCHEDULE_AT and SCHEDULE_AFTER -/

section

variable {p : Port} {ps : List Byte} {s : State} {x : Result}

theorem schedule_full (r : Point) (late : Bool) (hfree : s.calendar.freeRecords = []) :
    schedule p ps r late s = refuse s .calendarFull := by
  unfold schedule
  rw [hfree]

theorem schedule_admits {i : RecordNo} {rest : List RecordNo} {a : EntryAction} (r : Point) (late : Bool)
    (hfree : s.calendar.freeRecords = i :: rest) (ha : entryActionField ps = some a) :
    schedule p ps r late s = carryOutAdmission i rest (scheduledEntry p ps a) r late s := by
  unfold schedule
  rw [hfree, ha]

theorem scheduleAt_field (h : scheduleFieldChecks ps (decide (999999999 < (pointField ps 0).ns)) = some x) :
    scheduleAt p ps s = refuse s x := by
  unfold scheduleAt
  simp only [h]

/-- Steps 1 to 5 of Table 4-2 passed, and Common Time SET. -/
abbrev TimedFieldsPass (ps : List Byte) (s : State) : Prop :=
  scheduleFieldChecks ps (decide (999999999 < (pointField ps 0).ns)) = none ∧ s.time.timeState ≠ .free

theorem scheduleAt_notSet (h : scheduleFieldChecks ps (decide (999999999 < (pointField ps 0).ns)) = none)
    (hfree : s.time.timeState = .free) : scheduleAt p ps s = refuse s .timeNotSet := by
  unfold scheduleAt
  simp only [h, if_pos hfree]

theorem scheduleAt_object (h : TimedFieldsPass ps s) (hobject : scheduleObjectCheck p ps s = some x) :
    scheduleAt p ps s = refuse s x := by
  unfold scheduleAt
  simp only [h.1, if_neg h.2, hobject]

theorem scheduleAt_past (h : TimedFieldsPass ps s) (hobject : scheduleObjectCheck p ps s = none)
    (hpast : (byteField ps 9).getLsbD 2 = true ∧ (pointField ps 0).atOrBefore s.time.now) :
    scheduleAt p ps s = refuse s .past := by
  unfold scheduleAt
  simp only [h.1, if_neg h.2, hobject, if_pos hpast]

theorem scheduleAt_schedules (h : TimedFieldsPass ps s) (hobject : scheduleObjectCheck p ps s = none)
    (hpast : ¬ ((byteField ps 9).getLsbD 2 = true ∧ (pointField ps 0).atOrBefore s.time.now)) :
    scheduleAt p ps s = schedule p ps (pointField ps 0) true s := by
  unfold scheduleAt
  simp only [h.1, if_neg h.2, hobject, if_neg hpast]

/-- The condition of SCHEDULE_AFTER's step 2. -/
abbrev delayBad (ps : List Byte) : Bool :=
  decide (65535 < (pointField ps 0).sec ∨ 999999999 < (pointField ps 0).ns)

theorem scheduleAfter_field (h : scheduleFieldChecks ps (delayBad ps) = some x) :
    scheduleAfter p ps s = refuse s x := by
  unfold scheduleAfter
  simp only [h]

theorem scheduleAfter_range (h : scheduleFieldChecks ps (delayBad ps) = none)
    (hlate : ¬ (s.time.now.plus (pointField ps 0)).atOrBefore maxPoint) :
    scheduleAfter p ps s = refuse s .range := by
  unfold scheduleAfter
  simp only [h, if_pos hlate]

/-- Steps 1 to 5 and step 7 of Table 4-2 passed. -/
abbrev DelayFieldsPass (ps : List Byte) (s : State) : Prop :=
  scheduleFieldChecks ps (delayBad ps) = none ∧ (s.time.now.plus (pointField ps 0)).atOrBefore maxPoint

theorem scheduleAfter_object (h : DelayFieldsPass ps s) (hobject : scheduleObjectCheck p ps s = some x) :
    scheduleAfter p ps s = refuse s x := by
  unfold scheduleAfter
  simp only [h.1, if_neg (not_not.2 h.2), hobject]

theorem scheduleAfter_schedules (h : DelayFieldsPass ps s) (hobject : scheduleObjectCheck p ps s = none) :
    scheduleAfter p ps s = schedule p ps (s.time.now.plus (pointField ps 0)) false s := by
  unfold scheduleAfter
  simp only [h.1, if_neg (not_not.2 h.2), hobject]

end

/-- A point computed from Common Time lies past the scale from 2^32 seconds on (R69). -/
theorem plus_past_scale (a b : Point) :
    ¬ (a.plus b).atOrBefore maxPoint ↔ 4294967296000000000 ≤ a.toNs + b.toNs := by
  unfold Point.plus Point.ofNs Point.atOrBefore maxPoint maxSeconds
  generalize a.toNs + b.toNs = n
  unfold nsPerSecond
  dsimp only
  omega

section

variable {p : Port} {c : Command} {u : State} {r : Result}

theorem past_iff : ((byteField c.params 9).getLsbD 2 = true ∧ (pointField c.params 0).atOrBefore u.time.now) ↔
    (FlagSet c 2 ∧ (pointField c.params 0).atOrBefore u.time.now) := by
  rw [flagSet_iff]

/-- SCHEDULE_AT refuses where its table does. -/
theorem scheduleAt_refuses (h : RefusesWith (scheduleAtSteps p c u) r) : scheduleAt p c.params u = refuse u r := by
  unfold scheduleAtSteps at h
  rw [refusesWith_append, refusesWith_append, refusesWith_append, refusesWith_singleton, refusesWith_cons,
    refusesWith_singleton, passes_append, passes_append, passes_append, passes_singleton] at h
  have hbad : decide (999999999 < (pointField c.params 0).ns) = true ↔ 999999999 < field c.params 4 4 :=
    decide_eq_true_iff
  rcases h with ((hfield | ⟨hfields, hfree, rfl⟩) | ⟨⟨hfields, hset⟩, hobject⟩) |
    ⟨⟨⟨hfields, hset⟩, hobjects⟩, hlast⟩
  · exact scheduleAt_field (scheduleFieldChecks_refuse hbad hfield)
  · exact scheduleAt_notSet (scheduleFieldChecks_pass hbad hfields) hfree
  · exact scheduleAt_object ⟨scheduleFieldChecks_pass hbad hfields, hset⟩
      (scheduleObjectCheck_refuse hfields hobject)
  · have hpass : TimedFieldsPass c.params u := ⟨scheduleFieldChecks_pass hbad hfields, hset⟩
    have hobject := scheduleObjectCheck_pass hfields hobjects
    rcases hlast with ⟨hpast, rfl⟩ | ⟨hnot, hfull, rfl⟩
    · exact scheduleAt_past hpass hobject (past_iff.2 hpast)
    · rw [scheduleAt_schedules hpass hobject fun hpast => hnot (past_iff.1 hpast), schedule_full _ _ hfull]

/-- What passes the steps on fields and object is admitted into the record at the head of the queue. -/
theorem admitted_schedule {timeBad : Prop} (at' : Point) (late : Bool) (hfields : Passes (fieldSteps c timeBad))
    (hobjects : Passes (objectSteps p c u)) (hfree : u.calendar.freeRecords ≠ [])
    (hcomplete : ArmedListComplete u.calendar) :
    ∃ answer t, schedule p c.params at' late u = okay t answer ∧ Admitted p c at' late u answer t := by
  obtain ⟨a, hfield, ha, hmessage⟩ := entryActionField_of_passes hfields hobjects
  obtain ⟨i, rest, hqueue⟩ := List.exists_cons_of_ne_nil hfree
  rw [schedule_admits at' late hqueue hfield]
  exact admitted_carryOutAdmission at' late hcomplete hqueue ha hmessage

/-- SCHEDULE_AT admits where its table passes. -/
theorem scheduleAt_admits (h : Passes (scheduleAtSteps p c u)) (hcomplete : ArmedListComplete u.calendar) :
    ∃ answer t, scheduleAt p c.params u = okay t answer ∧
      Admitted p c (pointField c.params 0) true u answer t := by
  unfold scheduleAtSteps at h
  rw [passes_append, passes_append, passes_append, passes_singleton, passes_cons, passes_singleton] at h
  obtain ⟨⟨⟨hfields, hset⟩, hobjects⟩, hpast, hfull⟩ := h
  have hpass : TimedFieldsPass c.params u := ⟨scheduleFieldChecks_pass decide_eq_true_iff hfields, hset⟩
  rw [scheduleAt_schedules hpass (scheduleObjectCheck_pass hfields hobjects) fun h => hpast (past_iff.1 h)]
  exact admitted_schedule _ _ hfields hobjects hfull hcomplete

/-- SCHEDULE_AFTER refuses where its table does. -/
theorem scheduleAfter_refuses (h : RefusesWith (scheduleAfterSteps p c u) r) :
    scheduleAfter p c.params u = refuse u r := by
  unfold scheduleAfterSteps at h
  rw [refusesWith_append, refusesWith_append, refusesWith_append, refusesWith_singleton, refusesWith_singleton,
    passes_append, passes_append, passes_append, passes_singleton, ← plus_past_scale] at h
  have hbad : delayBad c.params = true ↔ 65535 < field c.params 0 4 ∨ 999999999 < field c.params 4 4 :=
    decide_eq_true_iff
  rcases h with ((hfield | ⟨hfields, hlate, rfl⟩) | ⟨⟨hfields, hlate⟩, hobject⟩) |
    ⟨⟨⟨hfields, hlate⟩, hobjects⟩, hfull, rfl⟩
  · exact scheduleAfter_field (scheduleFieldChecks_refuse hbad hfield)
  · exact scheduleAfter_range (scheduleFieldChecks_pass hbad hfields) hlate
  · exact scheduleAfter_object ⟨scheduleFieldChecks_pass hbad hfields, not_not.1 hlate⟩
      (scheduleObjectCheck_refuse hfields hobject)
  · have hpass : DelayFieldsPass c.params u := ⟨scheduleFieldChecks_pass hbad hfields, not_not.1 hlate⟩
    rw [scheduleAfter_schedules hpass (scheduleObjectCheck_pass hfields hobjects), schedule_full _ _ hfull]

/-- SCHEDULE_AFTER admits where its table passes, at Common Time plus the delay. -/
theorem scheduleAfter_admits (h : Passes (scheduleAfterSteps p c u)) (hcomplete : ArmedListComplete u.calendar) :
    ∃ answer t, scheduleAfter p c.params u = okay t answer ∧
      Admitted p c (u.time.now.plus (pointField c.params 0)) false u answer t := by
  unfold scheduleAfterSteps at h
  rw [passes_append, passes_append, passes_append, passes_singleton, passes_singleton, ← plus_past_scale] at h
  obtain ⟨⟨⟨hfields, hlate⟩, hobjects⟩, hfull⟩ := h
  have hpass : DelayFieldsPass c.params u :=
    ⟨scheduleFieldChecks_pass decide_eq_true_iff hfields, not_not.1 hlate⟩
  rw [scheduleAfter_schedules hpass (scheduleObjectCheck_pass hfields hobjects)]
  exact admitted_schedule _ _ hfields hobjects hfull hcomplete

end

/-- Settles O38: each command is its table, row by row, and then the admission. -/
theorem scheduleAdmitsOrRefuses : Obligations.ScheduleAdmitsOrRefuses := by
  intro p c d o s u at'
  refine ⟨fun h => ?_, fun h => ?_⟩
  · have hexec : exec (.scheduleAt p) s = .next (complete p c.tag d o (scheduleAt p c.params u)) :=
      execution_of_executes h
    refine ⟨fun r hr => ?_, fun hpass hcomplete => ?_⟩
    · rw [hexec, scheduleAt_refuses hr]
      rfl
    · obtain ⟨answer, t, hreply, hadmitted⟩ := scheduleAt_admits hpass hcomplete
      refine ⟨answer, t, ?_, hadmitted⟩
      rw [hexec, hreply]
      rfl
  · have hexec : exec (.scheduleAfter p) s = .next (complete p c.tag d o (scheduleAfter p c.params u)) :=
      execution_of_executes h
    refine ⟨fun r hr => ?_, fun hpass hcomplete r hns hr => ?_⟩
    · rw [hexec, scheduleAfter_refuses hr]
      rfl
    · obtain ⟨answer, t, hreply, hadmitted⟩ := scheduleAfter_admits hpass hcomplete
      have hplus : u.time.now.plus at' = r := by
        rw [← Point.ofNs_toNs hns, hr]
        rfl
      rw [hplus] at hadmitted
      refine ⟨answer, t, ?_, hadmitted⟩
      rw [hexec, hreply]
      rfl

end Sys2Proof.Machine

/-! The commands on entries that stand ARMED or FINISHED, and the release state (R65, R81, R82, R84, R85). -/

namespace Sys2Proof.Machine

open Claims

/-! ### The entry that a handle names -/

section

variable {p : Port} {h : Handle} {s : State} {e : Entry} {body : Entry → Reply}

theorem onArmed_stale (hstale : s.calendar.records[h.record].content = .free ∨
    s.calendar.records[h.record].gen ≠ h.gen) : onArmed p h s body = refuse s .staleHandle := by
  have hnamed : s.calendar.named h = none := by
    unfold Calendar.named
    split
    · rename_i hgen
      rw [hstale.resolve_right (not_not.2 hgen)]
      rfl
    · rfl
  unfold onArmed
  rw [hnamed]

/-- ARMED with no cause, FINISHED with one. -/
theorem Calendar.named_of_holds {i : RecordNo} {why : Option FinishCause} (hgen : s.calendar.records[i].gen = h.gen)
    (hi : i = h.record) (hholds : Holds s i e why) : s.calendar.named h = some e := by
  subst hi
  cases why with
  | none => exact Calendar.named_eq_some.2 ⟨hgen, .inl hholds⟩
  | some x => exact Calendar.named_eq_some.2 ⟨hgen, .inr ⟨x, hholds⟩⟩

theorem onArmed_notOwner (hnamed : s.calendar.named h = some e) (howner : e.owner ≠ p) :
    onArmed p h s body = refuse s .notOwner := by
  unfold onArmed
  rw [hnamed]
  exact if_pos howner

theorem onArmed_finished {x : FinishCause} (hnamed : s.calendar.named h = some e) (howner : e.owner = p)
    (hcontent : s.calendar.records[h.record].content = .finished e x) :
    onArmed p h s body = tooLate s e x := by
  unfold onArmed
  rw [hnamed, hcontent]
  exact if_neg (not_not.2 howner)

theorem onArmed_armed (hnamed : s.calendar.named h = some e) (howner : e.owner = p)
    (hcontent : s.calendar.records[h.record].content = .armed e) : onArmed p h s body = body e := by
  unfold onArmed
  rw [hnamed, hcontent]
  exact if_neg (not_not.2 howner)

end

/-! ### RETIME (R84) -/

section

variable {p : Port} {ps : List Byte} {s : State} {h : Handle}

theorem retime_badHandle (hh : handleField ps 0 = none) : retime p ps s = refuse s .range := by
  unfold retime
  simp only [hh]

theorem retime_badTime (hh : handleField ps 0 = some h) (hns : 999999999 < (pointField ps 2).ns) :
    retime p ps s = refuse s .range := by
  unfold retime
  simp only [hh, if_pos hns]

theorem retime_notSet (hh : handleField ps 0 = some h) (hns : (pointField ps 2).ns ≤ 999999999)
    (hfree : s.time.timeState = .free) : retime p ps s = refuse s .timeNotSet := by
  unfold retime
  simp only [hh, if_neg (Nat.not_lt.2 hns), if_pos hfree]

/-- The move of an ARMED entry to a new release time, or PAST for a STRICT entry moved to the past. -/
def moveEntry (i : RecordNo) (r : Point) (s : State) (e : Entry) : Reply :=
  if e.strict = true ∧ r.atOrBefore s.time.now then refuse s .past
  else
    okay (releaseIfDue true i r { s with calendar := s.calendar.arm i e r })
      (r.bytes ++ be 4 s.calendar.nextSequence.toNat)

theorem retime_onArmed (hh : handleField ps 0 = some h) (hns : (pointField ps 2).ns ≤ 999999999)
    (hset : s.time.timeState = .set) :
    retime p ps s = onArmed p h s (moveEntry h.record (pointField ps 2) s) := by
  have hnot : s.time.timeState ≠ .free := by rw [hset]; nofun
  unfold retime
  simp only [hh, if_neg (Nat.not_lt.2 hns), if_neg hnot]
  rfl

end

/-- Settles O39: RETIME's own checks, those it shares with CANCEL, and the move. -/
theorem retimeMovesEntry : Obligations.RetimeMovesEntry := by
  intro p c d o s h hp r answer
  have hexec : exec (.retime p) s = .next (complete p c.tag d o (retime p c.params s)) :=
    execution_of_executes_settled h hp
  have answer_of {x : Result} {bytes : List Byte} {t : State} (hr : retime p c.params s = ⟨t, x, bytes⟩) :
      answer x bytes t := by
    change exec _ _ = _
    rw [hexec, hr]
  refine ⟨fun hrange => answer_of (retime_badHandle (handleField_eq_none.2 hrange)), fun i hi => ?_⟩
  have hhandle := handleField_of_names hi
  refine ⟨fun hns => answer_of (retime_badTime hhandle hns),
    fun hns hfree => answer_of (retime_notSet hhandle hns hfree), fun hns hset => ?_⟩
  have hshared := retime_onArmed (p := p) hhandle hns hset
  refine ⟨fun hstale => answer_of (hshared.trans (onArmed_stale hstale)), fun hgen e why hholds => ?_⟩
  have hnamed := Calendar.named_of_holds (h := ⟨i, byteField c.params 1⟩) hgen rfl hholds
  refine ⟨fun howner => answer_of (hshared.trans (onArmed_notOwner hnamed howner)), fun howner => ⟨?_, ?_, ?_⟩⟩
  · rintro x rfl
    exact answer_of (hshared.trans (onArmed_finished hnamed howner hholds))
  · rintro rfl hstrict hpast
    refine answer_of ((hshared.trans (onArmed_armed hnamed howner hholds)).trans ?_)
    exact if_pos ⟨hstrict, hpast⟩
  · rintro rfl hstrict w
    have harm : w = { s with calendar := s.calendar.arm i e r } := by
      rw [Calendar.arm_eq, ← joined_eq, hgen]
    refine answer_of ((hshared.trans (onArmed_armed hnamed howner hholds)).trans ?_)
    rw [harm]
    exact if_neg fun hpast => hstrict hpast.1 hpast.2

/-! ### CANCEL (R85) -/

theorem cancel_badHandle {p : Port} {ps : List Byte} {s : State} (hh : handleField ps 0 = none) :
    cancel p ps s = refuse s .range := by
  unfold cancel
  rw [hh]

theorem cancel_onArmed {p : Port} {ps : List Byte} {s : State} {h : Handle} (hh : handleField ps 0 = some h) :
    cancel p ps s = onArmed p h s fun e =>
      okay (finishEntry h.record e .cancelled s) (be 2 e.occurrences ++ be 2 e.missed) := by
  unfold cancel
  rw [hh]

/-- The drop of a reference, in the words of the manual (R51, R52). -/
theorem dropsReference_dropReference (st : Store) (j : RecordNo) : DropsReference j st (st.dropReference j) :=
  ⟨fun _ _ hsealed hn => Store.dropReference_more hsealed hn,
    fun _ hsealed => Store.dropReference_last hsealed (Nat.le_refl 1)⟩

/-- A finished entry, whole: its record and the lists, and the reference of a DELIVER entry. -/
theorem finishEntry_eq (i : RecordNo) (e : Entry) (cause : FinishCause) (s : State) :
    finishEntry i e cause s = { s with
      store := (finishEntry i e cause s).store
      calendar := { s.calendar with
        records := s.calendar.records.set i ⟨s.calendar.records[i].gen, .finished e cause⟩
        armed := s.calendar.armed.erase i
        freeRecords := s.calendar.freeRecords ++ [i] } } := by
  unfold finishEntry dropEntryReference
  split <;> rfl

theorem finishEntry_store_deliver {e : Entry} {ts : PerPort Bool} {h : Handle} (i : RecordNo) (cause : FinishCause)
    (s : State) (ha : e.action = .deliver ts h) :
    (finishEntry i e cause s).store = s.store.dropReference h.record := by
  unfold finishEntry dropEntryReference
  rw [ha]
  rfl

theorem finishEntry_store_line {e : Entry} {out : OutLine} {act : LineAction} (i : RecordNo) (cause : FinishCause)
    (s : State) (ha : e.action = .line out act) : (finishEntry i e cause s).store = s.store := by
  unfold finishEntry dropEntryReference
  rw [ha]

/-- Settles O40: the shared checks, and the finish with cause CANCELLED. -/
theorem cancelFinishesEntry : Obligations.CancelFinishesEntry := by
  intro p c d o s h hp answer
  have hexec : exec (.cancel p) s = .next (complete p c.tag d o (cancel p c.params s)) :=
    execution_of_executes_settled h hp
  have answer_of {x : Result} {bytes : List Byte} {t : State} (hr : cancel p c.params s = ⟨t, x, bytes⟩) :
      answer x bytes t := by
    change exec _ _ = _
    rw [hexec, hr]
  refine ⟨fun hrange => answer_of (cancel_badHandle (handleField_eq_none.2 hrange)), fun i hi => ?_⟩
  have hshared := cancel_onArmed (p := p) (s := s) (handleField_of_names hi)
  refine ⟨fun hstale => answer_of (hshared.trans (onArmed_stale hstale)), fun hgen e why hholds => ?_⟩
  have hnamed := Calendar.named_of_holds (h := ⟨i, byteField c.params 1⟩) hgen rfl hholds
  refine ⟨fun howner => answer_of (hshared.trans (onArmed_notOwner hnamed howner)), fun howner => ⟨?_, ?_⟩⟩
  · rintro x rfl
    exact answer_of (hshared.trans (onArmed_finished hnamed howner hholds))
  · rintro rfl
    have hfinish := finishEntry_eq i e .cancelled s
    rw [hgen] at hfinish
    refine ⟨(finishEntry i e .cancelled s).store, answer_of ?_, ?_⟩
    · rw [← hfinish]
      exact hshared.trans (onArmed_armed hnamed howner hholds)
    · cases ha : e.action with
      | deliver ts x =>
        rw [finishEntry_store_deliver i _ s ha]
        exact dropsReference_dropReference _ _
      | line out act => exact finishEntry_store_line i _ s ha

/-! ### HOLD_RELEASES and RESUME_RELEASES (R81, R82) -/

theorem resumeReleases_running {p : Port} {ps : List Byte} {s : State} (h : s.calendar.releaseState = .running) :
    resumeReleases p ps s = okay s [0, 0] := by
  unfold resumeReleases resumeCount
  rw [resume_running h, h]
  rfl

theorem resumeReleases_held {p : Port} {ps : List Byte} {s : State} (h : s.calendar.releaseState = .held) :
    resumeReleases p ps s =
      okay (releaseDue true { s with calendar := { s.calendar with releaseState := .running } })
        [1, BitVec.ofNat 8 (dueEntries s).length] := by
  have hnot : ¬ s.running := by rw [State.running, h]; nofun
  unfold resumeReleases resumeCount
  rw [resume_held hnot, h]
  rfl

/-- Settles O41: the hold sets the release state, and the resume of a HELD Calendar releases what is due. -/
theorem holdAndResumeReleases : Obligations.HoldAndResumeReleases := by
  intro p c d o s u
  refine ⟨fun h => ?_, fun h => ?_⟩
  · have hexec : exec (.holdReleases p) s = .next (complete p c.tag d o (holdReleases p c.params u)) :=
      execution_of_executes h
    have hcode : u.calendar.releaseState.code = if u.calendar.releaseState = .held then 1 else 0 := by
      cases u.calendar.releaseState <;> rfl
    rw [hexec, ← hcode]
    rfl
  · have hexec : exec (.resumeReleases p) s = .next (complete p c.tag d o (resumeReleases p c.params u)) :=
      execution_of_executes h
    refine ⟨fun hrunning => ?_, fun hheld => ?_⟩
    · rw [hexec, resumeReleases_running hrunning]
      rfl
    · rw [hexec, resumeReleases_held hheld]
      rfl

end Sys2Proof.Machine

/-! One occurrence, whole (R74 to R78, R95 to R97, R140, R141): what a placement gives each target, what the
owner is told, and what becomes of the entry. -/

namespace Sys2Proof.Machine

open Claims

/-! ### One target placed (R93, R95) -/

section

variable {o : Occurrence} {h : Handle} {p q : Port} {s : State} {m : Message} {n : Nat}

/-- A placement changes no test of another target. -/
theorem placementTest_place (hqp : q ≠ p) : placementTest (place o h p s) q = placementTest s q := by
  unfold placementTest State.attached place
  simp [hqp]

/-- The record of a delivery, read from a SEALED message. -/
theorem deliveryRecord_of_sealed (hm : s.store.records[h.record].content = .sealed m n) :
    deliveryRecord s o h =
      ⟨h, m.sender, m.tag, m.length, o.entry, o.number, o.skipped, o.release, s.stamp, o.late⟩ := by
  unfold deliveryRecord
  rw [hm]
  rfl

theorem place_store (hm : s.store.records[h.record].content = .sealed m n) :
    (place o h p s).store = s.store.putContent h.record (.sealed m (n + 1)) :=
  Store.takeReference_sealed hm

theorem place_content (hm : s.store.records[h.record].content = .sealed m n) :
    (place o h p s).store.records[h.record].content = .sealed m (n + 1) := by
  rw [place_store hm, Store.putContent_content, if_pos rfl]

theorem deliveryRecord_place (hm : s.store.records[h.record].content = .sealed m n) :
    deliveryRecord (place o h p s) o h = deliveryRecord s o h := by
  rw [deliveryRecord_of_sealed hm, deliveryRecord_of_sealed (place_content hm)]
  rfl

theorem place_inboxes (o : Occurrence) (h : Handle) (p q : Port) (s : State) :
    (place o h p s).inboxes.get q =
      if q = p then (s.inboxes.get q).append (deliveryRecord s o h) else s.inboxes.get q := by
  unfold place
  rw [takeReference_inboxes, State.putInbox_inboxes, PerPort.get_put_eq]
  split
  · rename_i hqp
    rw [hqp]
  · rfl

end

/-! ### Every target visited (R95, R96) -/

section

variable {o : Occurrence} {h : Handle} {m : Message}

/-- What visits to distinct targets `ps` make of a placement, `n` the count of the message before. -/
structure VisitsGive (o : Occurrence) (h : Handle) (m : Message) (n : Nat) (ps : List Port) (x y : Placement) :
    Prop where
  failed : y.failed = x.failed ++ ps.filterMap fun q => (placementTest x.state q).map fun r => (q, r)
  placed : ∀ q, y.placed.get q = (x.placed.get q || (decide (q ∈ ps) && (placementTest x.state q).isNone))
  inboxes : ∀ q, y.state.inboxes.get q =
    if q ∈ ps ∧ placementTest x.state q = none then
      (x.state.inboxes.get q).append (deliveryRecord x.state o h)
    else x.state.inboxes.get q
  store : y.state.store = x.state.store.putContent h.record
    (.sealed m (n + (ps.filter fun q => (placementTest x.state q).isNone).length))

theorem Store.putContent_self {st : Store} {i : RecordNo} {c : MessageState} (h : st.records[i].content = c) :
    st.putContent i c = st := by
  subst h
  unfold Store.putContent Store.putRecord
  rw [show st.records.set i { st.records[i] with content := st.records[i].content } = st.records from
    Vector.set_getElem_self i.isLt]

theorem Store.putContent_putContent (st : Store) (i : RecordNo) (c c' : MessageState) :
    (st.putContent i c).putContent i c' = st.putContent i c' := by
  have hgen : (st.putContent i c).records[i].gen = st.records[i].gen := by
    change (st.putRecord i _).records[i].gen = _
    rw [Store.putRecord_get, if_pos rfl]
  have hset : (st.putContent i c).records.set i ⟨st.records[i].gen, c'⟩ =
      st.records.set i ⟨st.records[i].gen, c'⟩ := Vector.set_set ..
  unfold Store.putContent at hgen hset ⊢
  unfold Store.putRecord at hgen hset ⊢
  dsimp only at hgen hset ⊢
  rw [hgen, hset]

/-- A target that fails a test is only noted as failed. -/
theorem VisitsGive.of_failed {p : Port} {ps : List Port} {n : Nat} {r : FailReason} {x y : Placement}
    (htest : placementTest x.state p = some r)
    (hrest : VisitsGive o h m n ps { x with failed := x.failed ++ [(p, r)] } y) :
    VisitsGive o h m n (p :: ps) x y := by
  obtain ⟨hfailed, hplaced, hinboxes, hstore⟩ := hrest
  refine ⟨?_, fun q => ?_, fun q => ?_, ?_⟩
  · simp [hfailed, htest]
  · rw [hplaced]
    by_cases hqp : q = p <;> simp [hqp, htest]
  · rw [hinboxes]
    by_cases hqp : q = p <;> simp [hqp, htest]
  · simp [hstore, htest]

/-- A target that passes them is placed, and the tests of the others stand. -/
theorem VisitsGive.of_placed {p : Port} {ps : List Port} {n : Nat} {x y : Placement} (hp : p ∉ ps)
    (htest : placementTest x.state p = none) (hm : x.state.store.records[h.record].content = .sealed m n)
    (hrest : VisitsGive o h m (n + 1) ps { x with state := place o h p x.state, placed := x.placed.put p true } y) :
    VisitsGive o h m n (p :: ps) x y := by
  obtain ⟨hfailed, hplaced, hinboxes, hstore⟩ := hrest
  have htests : ∀ q ∈ ps, placementTest (place o h p x.state) q = placementTest x.state q := fun q hq =>
    placementTest_place fun hqp => hp (hqp ▸ hq)
  dsimp only at hfailed hplaced hinboxes hstore
  refine ⟨?_, fun q => ?_, fun q => ?_, ?_⟩
  · rw [hfailed, List.filterMap_cons, htest, List.filterMap_congr fun q hq => by rw [htests q hq]]
    rfl
  · rw [hplaced, PerPort.get_put_eq]
    by_cases hqp : q = p
    · simp [hqp, htest]
    · by_cases hq : q ∈ ps
      · simp [hqp, hq, htests q hq]
      · simp [hqp, hq]
  · rw [hinboxes, place_inboxes, deliveryRecord_place hm]
    by_cases hqp : q = p
    · simp [hqp, hp, htest]
    · by_cases hq : q ∈ ps
      · simp [hqp, hq, htests q hq]
      · simp [hqp, hq]
  · rw [hstore, place_store hm, Store.putContent_putContent, List.filter_cons, htest,
      List.filter_congr fun q hq => by rw [htests q hq]]
    simp only [Option.isNone_none, if_true, List.length_cons]
    rw [Nat.add_assoc, Nat.add_comm 1]

/-- Visits to distinct targets, in their order. -/
theorem visits_give : ∀ (ps : List Port) (n : Nat) (x : Placement), ps.Nodup →
    x.state.store.records[h.record].content = .sealed m n → VisitsGive o h m n ps x (ps.foldl (visit o h) x)
  | [], n, x, _, hm =>
    { failed := by simp
      placed := by simp
      inboxes := by simp
      store := (Store.putContent_self hm).symm }
  | p :: ps, n, x, hnodup, hm => by
    obtain ⟨hp, hps⟩ := List.nodup_cons.1 hnodup
    rw [List.foldl_cons]
    cases htest : placementTest x.state p with
    | some r =>
      have hvisit : visit o h x p = { x with failed := x.failed ++ [(p, r)] } := by
        unfold visit
        rw [htest]
      rw [hvisit]
      exact .of_failed htest (visits_give ps n _ hps hm)
    | none =>
      have hvisit : visit o h x p = { x with state := place o h p x.state, placed := x.placed.put p true } := by
        unfold visit
        rw [htest]
      rw [hvisit]
      exact .of_placed hp htest hm (visits_give ps (n + 1) _ hps (place_content hm))

end

/-! ### What the owner is told (R78, R97, R141) -/

/-- The queues of reports and what decides whether a report reaches one stand as they were. -/
structure SameQueues (s t : State) : Prop where
  reports : t.reports = s.reports
  ports : t.ports = s.ports
  departing : t.departing = s.departing

theorem SameQueues.report {s t : State} (h : SameQueues s t) (p : Port) (cause : Stamp) (b : ReportBody) :
    SameQueues (report p cause b s) (report p cause b t) :=
  ⟨report_reports_congr p cause b h.reports h.ports h.departing, by simp [h.ports], by simp [h.departing]⟩

/-- ENTRY_RELEASED with NOTIFY, then ENTRY_FINISHED at a finish, in the words of the obligation. -/
def announced (e : Entry) (cause : Stamp) (o : Occurrence) (k : CatchUp) (outcome : ReleaseOutcome)
    (s : State) : State :=
  let s' := if e.notify then
    report e.owner cause (.entryReleased o.entry o.number o.release o.skipped o.late outcome) s else s
  match k.fate with
  | .rearm _ => s'
  | .finish why => report e.owner cause (.entryFinished o.entry why o.number (min 65535 (e.missed + k.skipped))) s'

theorem SameQueues.announced {s t : State} (h : SameQueues s t) (e : Entry) (cause : Stamp) (o : Occurrence)
    (k : CatchUp) (outcome : ReleaseOutcome) :
    SameQueues (announced e cause o k outcome s) (announced e cause o k outcome t) := by
  have hreleased (b : ReportBody) : SameQueues (if e.notify then Machine.report e.owner cause b s else s)
      (if e.notify then Machine.report e.owner cause b t else t) := by
    split
    · exact h.report _ _ _
    · exact h
  unfold Machine.announced
  dsimp only
  split
  · exact hreleased _
  · exact (hreleased _).report _ _ _

theorem reportRelease_eq (e : Entry) (o : Occurrence) (outcome : ReleaseOutcome) (s : State) :
    reportRelease e o outcome s = if e.notify then
      report e.owner s.stamp (.entryReleased o.entry o.number o.release o.skipped o.late outcome) s else s := rfl

theorem sameQueues_finishEntry (i : RecordNo) (e : Entry) (cause : FinishCause) (s : State) :
    SameQueues s (finishEntry i e cause s) := by
  rw [finishEntry_eq]
  exact ⟨rfl, rfl, rfl⟩

theorem finishEntry_stamp (i : RecordNo) (e : Entry) (cause : FinishCause) (s : State) :
    (finishEntry i e cause s).stamp = s.stamp := by
  rw [finishEntry_eq]
  rfl

theorem reportRelease_stamp (e : Entry) (o : Occurrence) (outcome : ReleaseOutcome) (s : State) :
    (reportRelease e o outcome s).stamp = s.stamp := by
  unfold State.stamp
  rw [(reportRelease_undisturbed e o outcome s).time]

/-- The fate reports nothing but ENTRY_FINISHED at a finish. -/
theorem settleFate_reports (i : RecordNo) (h : Handle) (e : Entry) (fate : Fate) (s : State) :
    (settleFate i h e fate s).reports = (match fate with
      | .rearm _ => s
      | .finish why => report e.owner s.stamp (.entryFinished h why e.occurrences e.missed) s).reports := by
  cases fate with
  | rearm next => rfl
  | finish why =>
    change (report e.owner (finishEntry i e why s).stamp _ (finishEntry i e why s)).reports = _
    rw [finishEntry_stamp]
    exact ((sameQueues_finishEntry i e why s).report _ _ _).reports

/-! ### The fate of the entry and its reference (R51, R75, R76) -/

theorem settleFate_inboxes (i : RecordNo) (h : Handle) (e : Entry) (fate : Fate) (s : State) :
    (settleFate i h e fate s).inboxes = s.inboxes := by
  cases fate with
  | rearm next => rfl
  | finish why =>
    change (reportNow _ _ (finishEntry i e why s)).inboxes = _
    rw [reportNow_inboxes, finishEntry_eq]

theorem settleFate_outputs (i : RecordNo) (h : Handle) (e : Entry) (fate : Fate) (s : State) :
    (settleFate i h e fate s).outputs = s.outputs := by
  cases fate with
  | rearm next => rfl
  | finish why =>
    change (reportNow _ _ (finishEntry i e why s)).outputs = _
    rw [reportNow_outputs, finishEntry_eq]

theorem settleFate_store_finish (i : RecordNo) (h : Handle) (e : Entry) (why : FinishCause) (s : State) :
    (settleFate i h e (.finish why) s).store = (finishEntry i e why s).store := reportNow_store ..

theorem reportRelease_kept (e : Entry) (o : Occurrence) (outcome : ReleaseOutcome) (s : State) :
    (reportRelease e o outcome s).store = s.store ∧ (reportRelease e o outcome s).inboxes = s.inboxes ∧
      (reportRelease e o outcome s).outputs = s.outputs := by
  unfold reportRelease
  split
  · exact ⟨reportNow_store .., reportNow_inboxes .., reportNow_outputs ..⟩
  · exact ⟨rfl, rfl, rfl⟩

section

variable {late : Bool} {s : State} {i : RecordNo} {e : Entry}

/-- The state in which the occurrence has been handed on, and its outcome. -/
abbrev handedOn (late : Bool) (s : State) (i : RecordNo) (e : Entry) : State × ReleaseOutcome :=
  handOn (s.occurrence late i e) e.action s

theorem handedOn_stamp : (handedOn late s i e).1.stamp = s.stamp := by
  unfold State.stamp
  rw [(handOn_undisturbed _ _ s).time]

/-- The reports of an occurrence are those of its hand-on, with what is announced behind them. -/
theorem releaseEntry_reports (hi : s.calendar.records[i].content = .armed e) :
    (releaseEntry late s i).reports = (announced e s.stamp (s.occurrence late i e) (catchUp e s.time.now)
      (handedOn late s i e).2 (handedOn late s i e).1).reports := by
  rw [releaseEntry_of_armed hi, settleFate_reports, reportRelease_stamp, reportRelease_eq, handedOn_stamp]
  rfl

theorem releaseEntry_inboxes (hi : s.calendar.records[i].content = .armed e) :
    (releaseEntry late s i).inboxes = (handedOn late s i e).1.inboxes := by
  obtain ⟨-, hinboxes, -⟩ := reportRelease_kept e (s.occurrence late i e) (handedOn late s i e).2
    (handedOn late s i e).1
  rw [releaseEntry_of_armed hi, settleFate_inboxes, hinboxes]

theorem releaseEntry_outputs (hi : s.calendar.records[i].content = .armed e) :
    (releaseEntry late s i).outputs = (handedOn late s i e).1.outputs := by
  obtain ⟨-, -, houtputs⟩ := reportRelease_kept e (s.occurrence late i e) (handedOn late s i e).2
    (handedOn late s i e).1
  rw [releaseEntry_of_armed hi, settleFate_outputs, houtputs]

/-- A re-armed entry keeps its reference (R51). -/
theorem releaseEntry_store_rearm {next : Point} (hi : s.calendar.records[i].content = .armed e)
    (hfate : (catchUp e s.time.now).fate = .rearm next) :
    (releaseEntry late s i).store = (handedOn late s i e).1.store := by
  obtain ⟨hstore, -⟩ := reportRelease_kept e (s.occurrence late i e) (handedOn late s i e).2
    (handedOn late s i e).1
  rw [releaseEntry_of_armed hi, hfate]
  exact hstore

/-- A DELIVER entry that finishes drops it. -/
theorem releaseEntry_store_finish {why : FinishCause} {ts : PerPort Bool} {mh : Handle}
    (hi : s.calendar.records[i].content = .armed e) (hfate : (catchUp e s.time.now).fate = .finish why)
    (ha : e.action = .deliver ts mh) :
    (releaseEntry late s i).store = (handedOn late s i e).1.store.dropReference mh.record := by
  obtain ⟨hstore, -⟩ := reportRelease_kept e (s.occurrence late i e) (handedOn late s i e).2
    (handedOn late s i e).1
  have haction : (e.counted (catchUp e s.time.now)).action = .deliver ts mh := ha
  rw [releaseEntry_of_armed hi, hfate, settleFate_store_finish, finishEntry_store_deliver i why _ haction, hstore]

theorem releaseEntry_store_line {out : OutLine} {act : LineAction} (hi : s.calendar.records[i].content = .armed e)
    (ha : e.action = .line out act) : (releaseEntry late s i).store = (handedOn late s i e).1.store := by
  obtain ⟨hstore, -⟩ := reportRelease_kept e (s.occurrence late i e) (handedOn late s i e).2
    (handedOn late s i e).1
  cases hfate : (catchUp e s.time.now).fate with
  | rearm next => exact releaseEntry_store_rearm hi hfate
  | finish why =>
    have haction : (e.counted (catchUp e s.time.now)).action = .line out act := ha
    rw [releaseEntry_of_armed hi, hfate, settleFate_store_finish, finishEntry_store_line i why _ haction, hstore]

/-- What the hand-on of a DELIVER occurrence leaves: its placement, and DELIVERY_FAILED with a failed target. -/
theorem deliverOccurrence_eq (o : Occurrence) (ts : PerPort Bool) (h : Handle) (s : State) :
    deliverOccurrence o ts h s =
      (if (placeAll o ts h s).failed = [] then (placeAll o ts h s).state
        else report o.owner s.stamp
          (.deliveryFailed o.entry o.number o.release o.late (placeAll o ts h s).failed) (placeAll o ts h s).state,
        (placeAll o ts h s).placed) := by
  have hstamp : (placeAll o ts h s).state.stamp = s.stamp := by simp [State.stamp]
  rw [← hstamp]
  unfold deliverOccurrence
  dsimp only
  split <;> rfl

theorem sameQueues_placeAll (o : Occurrence) (ts : PerPort Bool) (h : Handle) (s : State) :
    SameQueues s (placeAll o ts h s).state := ⟨by simp, by simp, by simp⟩

end

/-! ### A DELIVER occurrence (R95 to R97) -/

section

variable {s : State} {ts : PerPort Bool} {h : Handle} {m : Message} {n : Nat}

/-- The targets of a DELIVER entry, visited in ascending order of port number. -/
theorem placeAll_gives (o : Occurrence) (hm : s.store.records[h.record].content = .sealed m n) :
    VisitsGive o h m n (Port.all.filter fun q => ts.get q) ⟨s, ⟨false, false, false, false⟩, []⟩
      (placeAll o ts h s) :=
  visits_give _ n _ (List.Nodup.filter _ (by decide)) hm

/-- Placed are the targets that pass every test. -/
theorem placeAll_placed_get (o : Occurrence) (hm : s.store.records[h.record].content = .sealed m n) (q : Port) :
    (placeAll o ts h s).placed.get q = (ts.get q && (placementTest s q).isNone) := by
  have hnone : (⟨false, false, false, false⟩ : PerPort Bool).get q = false := by cases q <;> rfl
  rw [(placeAll_gives o hm).placed, hnone]
  simp [Port.mem_all]

theorem placeAll_placed (o : Occurrence) (hm : s.store.records[h.record].content = .sealed m n) :
    (placeAll o ts h s).placed = ⟨ts.p0 && (placementTest s .p0).isNone, ts.p1 && (placementTest s .p1).isNone,
      ts.p2 && (placementTest s .p2).isNone, ts.p3 && (placementTest s .p3).isNone⟩ :=
  PerPort.ext_get fun q => (placeAll_placed_get o hm q).trans (by cases q <;> rfl)

/-- Each target placed has one record appended. -/
theorem placeAll_inboxes_get (o : Occurrence) (hm : s.store.records[h.record].content = .sealed m n) (q : Port) :
    (placeAll o ts h s).state.inboxes.get q =
      if (placeAll o ts h s).placed.get q then (s.inboxes.get q).append (deliveryRecord s o h)
      else s.inboxes.get q := by
  rw [(placeAll_gives o hm).inboxes, placeAll_placed_get o hm]
  simp [Port.mem_all]

/-- The message gains one reference for each target placed (R50). -/
theorem placeAll_store (o : Occurrence) (hm : s.store.records[h.record].content = .sealed m n) :
    (placeAll o ts h s).state.store = s.store.putContent h.record
      (.sealed m (n + (Port.all.filter fun q => (placeAll o ts h s).placed.get q).length)) := by
  rw [(placeAll_gives o hm).store, List.filter_filter]
  simp only [placeAll_placed_get o hm, Bool.and_comm]

/-- The hand-on of a DELIVER occurrence. -/
theorem handOn_deliver (o : Occurrence) (ts : PerPort Bool) (h : Handle) (s : State) :
    handOn o (.deliver ts h) s =
      (if (placeAll o ts h s).failed = [] then (placeAll o ts h s).state
        else report o.owner s.stamp
          (.deliveryFailed o.entry o.number o.release o.late (placeAll o ts h s).failed) (placeAll o ts h s).state,
        .placed (placeAll o ts h s).placed) := by
  change ((deliverOccurrence o ts h s).1, ReleaseOutcome.placed (deliverOccurrence o ts h s).2) = _
  rw [deliverOccurrence_eq]

end

section

variable {late : Bool} {s : State} {i : RecordNo} {e : Entry} {ts : PerPort Bool} {mh : Handle}

/-- DELIVERY_FAILED touches neither store nor inboxes nor outputs. -/
theorem handedOn_deliver_kept (ha : e.action = .deliver ts mh) :
    (handedOn late s i e).1.store = (placeAll (s.occurrence late i e) ts mh s).state.store ∧
      (handedOn late s i e).1.inboxes = (placeAll (s.occurrence late i e) ts mh s).state.inboxes ∧
      (handedOn late s i e).1.outputs = s.outputs := by
  rw [handedOn, ha, handOn_deliver]
  dsimp only
  split
  · exact ⟨rfl, rfl, placeAll_outputs ..⟩
  · exact ⟨report_store .., report_inboxes .., (report_outputs ..).trans (placeAll_outputs ..)⟩

/-- The reports of a DELIVER occurrence, told to the state before it. -/
theorem releaseEntry_reports_deliver (hi : s.calendar.records[i].content = .armed e)
    (ha : e.action = .deliver ts mh) :
    let o := s.occurrence late i e
    let x := placeAll o ts mh s
    (releaseEntry late s i).reports = (announced e s.stamp o (catchUp e s.time.now) (.placed x.placed)
      (if x.failed = [] then s
        else report e.owner s.stamp (.deliveryFailed o.entry o.number o.release late x.failed) s)).reports := by
  intro o x
  have hplaced : SameQueues s x.state := sameQueues_placeAll o ts mh s
  rw [releaseEntry_reports hi, handedOn, ha, handOn_deliver]
  refine (SameQueues.announced ?_ e s.stamp o _ _).reports
  split
  · exact hplaced
  · exact hplaced.report _ _ _

end

/-! ### O43 -/

/-- Settles O43: the occurrence is its hand-on, the reports behind it and the fate, each read off in turn. -/
theorem occurrenceCarriedOut : Obligations.OccurrenceCarriedOut := by
  intro late s i e hi t k h number e' skipped tell released finished
  refine ⟨(releaseEntry_undisturbed late s i).keptByReleases, ?_, fun ts mh m n ha hm _ => ?_,
    fun out act ha => ?_⟩
  · have hcalendar : t.calendar = s.calendar.settled i (e.counted k) k.fate := releaseEntry_calendar hi
    rw [hcalendar]
    cases k.fate with
    | rearm next =>
      dsimp only
      rw [joined_eq]
      rfl
    | finish cause => rfl
  · intro fails placed failed count
    have hplaced : (placeAll (s.occurrence late i e) ts mh s).placed = placed := placeAll_placed _ hm
    have hfailed : (placeAll (s.occurrence late i e) ts mh s).failed = failed := (placeAll_gives _ hm).failed
    obtain ⟨hstore, hinboxes, houtputs⟩ := handedOn_deliver_kept (late := late) (s := s) (i := i) ha
    rw [placeAll_store _ hm, hplaced] at hstore
    refine ⟨fun q => ?_, ⟨fun ⟨next, hfate⟩ => ?_, fun ⟨cause, hfate⟩ => ?_⟩, ?_, ?_⟩
    · rw [releaseEntry_inboxes hi, hinboxes, placeAll_inboxes_get _ hm, hplaced, deliveryRecord_of_sealed hm]
      rfl
    · exact (releaseEntry_store_rearm hi hfate).trans hstore
    · rw [releaseEntry_store_finish hi hfate ha, hstore]
      exact dropsReference_dropReference _ _
    · rw [releaseEntry_outputs hi, houtputs]
    · rw [← hplaced, ← hfailed]
      exact releaseEntry_reports_deliver hi ha
  · rw [releaseEntry_store_line hi ha, releaseEntry_inboxes hi, releaseEntry_outputs hi, releaseEntry_reports hi]
    unfold handedOn
    rw [ha]
    by_cases howner : s.events.outOwner.get out = some e.owner
    · rw [handOn_line_driven act (o := s.occurrence late i e) howner]
      have hdriven : SameQueues s (applyAction out act s) := ⟨rfl, rfl, rfl⟩
      exact ⟨rfl, rfl, fun _ => ⟨rfl, (hdriven.announced e s.stamp _ _ _).reports⟩,
        fun hother => absurd howner hother⟩
    · rw [handOn_line_refused act (o := s.occurrence late i e) howner]
      exact ⟨reportNow_store .., reportNow_inboxes .., fun hmine => absurd hmine howner,
        fun _ => ⟨reportNow_outputs .., rfl⟩⟩

end Sys2Proof.Machine

/-! The commands on an inbox (R100 to R104): reading the head record and its payload, removing records,
and the two settings. -/

namespace Sys2Proof.Machine

open Claims

/-! ### FETCH_HEAD (R100) -/

section

variable {p : Port} {ps : List Byte} {s : State} {x : Delivery} {rest : List Delivery} {m : Message}

/-- The payload of a record is that of the message that it names. -/
theorem payloadOf_eq (offset count : Nat) (hm : s.store.records[x.message.record].content.message? = some m) :
    payloadOf s x offset count = readPayloadBytes s.store.pool m.chain offset count := by
  unfold payloadOf
  rw [hm]

theorem fetchHead_empty (h : (s.inboxes.get p).records = []) : fetchHead p ps s = refuse s .empty := by
  unfold fetchHead
  rw [h]

theorem fetchHead_head (h : (s.inboxes.get p).records = x :: rest)
    (hm : s.store.records[x.message.record].content.message? = some m) :
    fetchHead p ps s = okay s (x.header ++ [BitVec.ofNat 8 (rest.length + 1)] ++
      readPayloadBytes s.store.pool m.chain 0 (min 16 x.length)) := by
  unfold fetchHead
  rw [h]
  dsimp only
  rw [payloadOf_eq _ _ hm]

/-- The header with the number of records behind it, field by field (Table 10-10). -/
theorem Delivery.header_counted (x : Delivery) (n : Byte) :
    x.header ++ [n] = [x.source.code] ++ be 2 x.tag.toNat ++ be 2 x.length ++
      [BitVec.ofNat 8 x.entry.record.val, x.entry.gen] ++ be 2 x.occurrence ++ be 2 x.missedBefore ++
      be 4 x.release.sec ++ be 4 x.release.ns ++ [x.delivered.epoch] ++ be 4 x.delivered.point.sec ++
      be 4 x.delivered.point.ns ++ [if x.late then 1 else 0, n] := by
  simp [Delivery.header, Handle.bytes, Point.bytes, Stamp.bytes, markByte]

/-! ### READ_PAYLOAD (R101) -/

theorem readPayload_range
    (h : (byteField ps 2).toNat < 1 ∨ 32 < (byteField ps 2).toNat ∨ 1023 < field ps 0 2) :
    readPayload p ps s = refuse s .range := by
  unfold readPayload
  simp only [field_one]
  split
  · rfl
  · exact if_pos (by omega)

/-- READ_PAYLOAD on the records of the inbox, its fields in range: EMPTY with no record, RANGE past the end
of the head's payload. -/
def readHeadPayload (s : State) (offset count : Nat) : List Delivery → Reply
  | [] => refuse s .empty
  | x :: _ => if x.length < offset + count then refuse s .range else okay s (payloadOf s x offset count)

theorem readHeadPayload_past {offset count : Nat} (h : x.length < offset + count) :
    readHeadPayload s offset count (x :: rest) = refuse s .range := if_pos h

theorem readHeadPayload_within {offset count : Nat} (h : offset + count ≤ x.length)
    (hm : s.store.records[x.message.record].content.message? = some m) :
    readHeadPayload s offset count (x :: rest) =
      okay s (readPayloadBytes s.store.pool m.chain offset count) := by
  rw [← payloadOf_eq offset count hm]
  exact if_neg (Nat.not_lt.2 h)

theorem readPayload_inRange (hlow : 1 ≤ (byteField ps 2).toNat) (hhigh : (byteField ps 2).toNat ≤ 32)
    (hoffset : field ps 0 2 ≤ 1023) :
    readPayload p ps s =
      readHeadPayload s (field ps 0 2) (byteField ps 2).toNat (s.inboxes.get p).records := by
  unfold readPayload
  simp only [field_one]
  rw [if_neg (by omega), if_neg (by omega)]
  rfl

end

/-- Settles O44: each command answers by the head record of the inbox, and leaves the state it finds. -/
theorem fetchAndReadPayload : Obligations.FetchAndReadPayload := by
  intro p c d o s u records payload
  refine ⟨fun h => ?_, fun h => ?_⟩
  · have hexec : exec (.fetchHead p) s = .next (complete p c.tag d o (fetchHead p c.params u)) :=
      execution_of_executes h
    refine ⟨fun hempty => ?_, fun x rest m hhead hm => ?_⟩
    · rw [hexec, fetchHead_empty hempty]
      rfl
    · rw [hexec, fetchHead_head hhead hm, Delivery.header_counted]
      rfl
  · intro offset count
    have hexec : exec (.readPayload p) s = .next (complete p c.tag d o (readPayload p c.params u)) :=
      execution_of_executes h
    refine ⟨fun hbad => ?_, fun hlow hhigh hoffset => ?_⟩
    · rw [hexec, readPayload_range hbad]
      rfl
    · have hread : exec (.readPayload p) s =
          .next (complete p c.tag d o (readHeadPayload u offset count records)) := by
        rw [hexec, readPayload_inRange hlow hhigh hoffset]
      refine ⟨fun hempty => ?_, fun x rest m hhead hm => ⟨fun hpast => ?_, fun hwithin => ?_⟩⟩
      · rw [hread, hempty]
        rfl
      · rw [hread, hhead, readHeadPayload_past hpast]
        rfl
      · rw [hread, hhead, readHeadPayload_within hwithin hm]
        rfl

/-! ### DISCARD_HEAD (R102) -/

section

variable {p : Port} {ps : List Byte} {s : State} {x : Delivery} {rest : List Delivery}

theorem discardHead_empty (h : (s.inboxes.get p).records = []) : discardHead p ps s = refuse s .empty := by
  unfold discardHead
  rw [h]

theorem removeHead_eq (h : (s.inboxes.get p).records = x :: rest) : removeHead p s = { s with
    store := s.store.dropReference x.message.record
    inboxes := s.inboxes.put p { s.inboxes.get p with records := rest } } := by
  unfold removeHead
  rw [h]
  rfl

theorem discardHead_head (h : (s.inboxes.get p).records = x :: rest) :
    discardHead p ps s = okay (removeHead p s) [BitVec.ofNat 8 rest.length] := by
  unfold discardHead
  rw [h]

end

/-! ### SET_INBOX (R104) -/

theorem inboxSettingOf_code (a : InboxSetting) : inboxSettingOf a.code = some a := by
  cases a <;> rfl

theorem settingOf_markByte (on : Bool) : settingOf (markByte on) = some on := by
  cases on <;> rfl

/-- A code above 1 stands for no inbox setting. -/
theorem inboxSettingOf_eq_none {b : Byte} (h : 1 < b.toNat) : inboxSettingOf b = none := by
  unfold inboxSettingOf
  split
  · omega
  · omega
  · rfl

theorem settingOf_eq_none {b : Byte} (h : 1 < b.toNat) : settingOf b = none := by
  unfold settingOf
  split
  · omega
  · omega
  · rfl

section

variable {p : Port} {ps : List Byte} {s : State}

theorem setInbox_badParam (h : 1 < (byteField ps 0).toNat ∨ 1 < (byteField ps 1).toNat) :
    setInbox p ps s = refuse s .badParam := by
  unfold setInbox
  dsimp only
  rcases h with hsetting | hattention
  · rw [inboxSettingOf_eq_none hsetting]
  · rw [settingOf_eq_none hattention]
    cases inboxSettingOf (byteField ps 0) <;> rfl

theorem setInbox_sets {a : InboxSetting} {on : Bool} (ha : byteField ps 0 = a.code)
    (hon : byteField ps 1 = markByte on) :
    setInbox p ps s = okay (s.putInbox p ⟨(s.inboxes.get p).records, a, on⟩)
      [(s.inboxes.get p).setting.code, markByte (s.inboxes.get p).attention,
        BitVec.ofNat 8 (s.inboxes.get p).records.length] := by
  unfold setInbox
  rw [ha, hon, inboxSettingOf_code, settingOf_markByte]

end

/-- Settles O45: the head goes with its reference, a flush takes every record in turn, and SET_INBOX
replaces both settings. -/
theorem inboxCommands : Obligations.InboxCommands := by
  intro p c d o s hp x
  refine ⟨fun h => ?_, fun h => ?_, fun h => ?_, fun j store => dropsReference_dropReference store j⟩
  · have hexec : exec (.discardHead p) s = .next (complete p c.tag d o (discardHead p c.params s)) :=
      execution_of_executes_settled h hp
    refine ⟨fun hempty => ?_, fun head rest hhead => ⟨s.store.dropReference head.message.record, ?_,
      dropsReference_dropReference _ _⟩⟩
    · rw [hexec, discardHead_empty hempty]
      rfl
    · rw [hexec, discardHead_head hhead, removeHead_eq hhead]
      rfl
  · have hexec : exec (.flushInbox p) s = .next (complete p c.tag d o (flushInbox p c.params s)) :=
      execution_of_executes_settled h hp
    rw [hexec, flushInbox, flush_eq]
    rfl
  · have hexec : exec (.setInbox p) s = .next (complete p c.tag d o (setInbox p c.params s)) :=
      execution_of_executes_settled h hp
    refine ⟨fun hbad => ?_, fun setting attention hsetting hattention => ?_⟩
    · rw [hexec, setInbox_badParam hbad]
      rfl
    · rw [hexec, setInbox_sets hsetting hattention]
      rfl

end Sys2Proof.Machine

/-! The commands of the event and output lines and of the align arming (R111, R112, R119, R122, R126, R132,
R133): the codes that name a line and its parameters, and each rule's outcome, check by check. -/

namespace Sys2Proof.Machine

open Claims

/-- A command that passes the checks before its own rule ends with what its rule answers. -/
theorem execution_answers {row : CommandRow} {body : Port → List Byte → State → Reply} {p : Port} {c : Command}
    {d o : Bool} {s t : State} {r : Result} {payload : List Byte} (hex : Executes row p c d o s)
    (h : body p c.params s.settleTick = ⟨t, ⟨r, payload⟩⟩) :
    execution row body p s = .next (answered p c d o r payload t) := by
  rw [execution_of_executes hex, h]

/-! ### Codes of lines and their parameters (Table 10-1) -/

theorem lineOf_event_code (l : EvLine) : lineOf l.code = some (.event l) := by
  cases l <;> rfl

theorem lineOf_output_code (out : OutLine) : lineOf out.code = some (.output out) := by
  cases out <;> rfl

/-- A code above 7 stands for no line. -/
theorem lineOf_eq_none {b : Byte} : lineOf b = none ↔ 7 < b.toNat := by
  unfold lineOf
  split <;> simp_all
  omega

theorem code_of_lineOf {b : Byte} {l : EvLine} (h : lineOf b = some (.event l)) : b = l.code := by
  unfold lineOf at h
  split at h <;> cases h <;> exact (byte_eq_iff (by decide)).2 ‹_›

theorem eventLineOf_code (l : EvLine) : eventLineOf l.code = some l := by
  cases l <;> rfl

/-- A code above 3 stands for no event line: codes 4 to 7 are those of the output lines. -/
theorem eventLineOf_eq_none {b : Byte} (h : 3 < b.toNat) : eventLineOf b = none := by
  unfold eventLineOf
  split
  · rename_i l hl
    rw [code_of_lineOf hl] at h
    cases l <;> revert h <;> decide
  · rfl

theorem edgeSelectOf_code (x : EdgeSelect) : edgeSelectOf x.code = some x := by
  cases x <;> rfl

theorem edgeSelectOf_eq_none {b : Byte} : edgeSelectOf b = none ↔ b.toNat < 1 ∨ 3 < b.toNat := by
  unfold edgeSelectOf
  split <;> simp_all
  omega

theorem levelOf_code (x : Level) : levelOf x.code = some x := by
  cases x <;> rfl

theorem levelOf_eq_none {b : Byte} : levelOf b = none ↔ 1 < b.toNat := by
  unfold levelOf
  split <;> simp_all
  omega

theorem alignModeOf_code (x : AlignMode) : alignModeOf x.code = some x := by
  cases x <;> rfl

theorem alignModeOf_eq_none {b : Byte} : alignModeOf b = none ↔ b.toNat < 1 ∨ 2 < b.toNat := by
  unfold alignModeOf
  split <;> simp_all
  omega

/-! ### CLAIM_LINE (R111, R132) -/

section

variable {p q : Port} {ps : List Byte} {s : State} {line : Line} {granted : Reply}

theorem claim_unowned (h : s.ownerOf line = none) : claim p line s granted = granted := by
  unfold claim
  rw [h]

theorem claim_held (h : s.ownerOf line = some q) (hq : q ≠ p) :
    claim p line s granted = ⟨s, .lineHeld, [q.code]⟩ := by
  unfold claim
  rw [h]
  exact if_neg hq

theorem claim_own (h : s.ownerOf line = some p) : claim p line s granted = ⟨s, .alreadyClaimed, []⟩ := by
  unfold claim
  rw [h]
  exact if_pos rfl

theorem claimLine_noLine (h : 7 < (byteField ps 0).toNat) : claimLine p ps s = refuse s .badParam := by
  unfold claimLine
  dsimp only
  rw [lineOf_eq_none.2 h]

theorem claimLine_badSelect {l : EvLine} (hl : byteField ps 0 = l.code)
    (h : (byteField ps 1).toNat < 1 ∨ 3 < (byteField ps 1).toNat) : claimLine p ps s = refuse s .badParam := by
  unfold claimLine
  dsimp only
  rw [hl, lineOf_event_code, edgeSelectOf_eq_none.2 h]

theorem claimLine_event {l : EvLine} {select : EdgeSelect} (hl : byteField ps 0 = l.code)
    (hselect : byteField ps 1 = select.code) :
    claimLine p ps s = claim p (.event l) s
      (okay (s.putLine l ((s.events.lines.get l).claimed p select (field ps 2 2)))
        ([l.code, byteField ps 1] ++ be 2 (field ps 2 2))) := by
  unfold claimLine
  dsimp only
  rw [hl, lineOf_event_code, hselect, edgeSelectOf_code]

theorem claimLine_badLevel {out : OutLine} (hout : byteField ps 0 = out.code)
    (h : 1 < (byteField ps 1).toNat) : claimLine p ps s = refuse s .badParam := by
  unfold claimLine
  dsimp only
  rw [hout, lineOf_output_code, levelOf_eq_none.2 h]

theorem claimLine_output {out : OutLine} {level : Level} (hout : byteField ps 0 = out.code)
    (hlevel : byteField ps 1 = level.code) :
    claimLine p ps s = claim p (.output out) s
      (okay ((s.putOutOwner out (some p)).putOut out (.claimed level)) [out.code, byteField ps 1, 0, 0]) := by
  unfold claimLine
  dsimp only
  rw [hout, lineOf_output_code, hlevel, levelOf_code]

end

/-- Settles O46: the line and its parameter are read from their codes, then the owner decides, for an event
line and an output line alike. -/
theorem claimLineGrants : Obligations.ClaimLineGrants := by
  intro p c d o s hex u x answer
  have hanswer {r : Result} {bytes : List Byte} {t : State}
      (h : claimLine p c.params u = ⟨t, ⟨r, bytes⟩⟩) : answer r bytes t := execution_answers hex h
  refine ⟨fun h => hanswer (claimLine_noLine h), fun l hl => ⟨fun h => hanswer (claimLine_badSelect hl h),
    fun select hselect => ?_⟩, fun out hout => ⟨fun h => hanswer (claimLine_badLevel hout h),
    fun level hlevel => ?_⟩⟩
  · have hclaim := claimLine_event (p := p) (s := u) hl hselect
    exact ⟨fun q hq => ⟨fun hne => hanswer (hclaim.trans (claim_held hq hne)),
      fun hqp => hanswer (hclaim.trans (claim_own (hqp ▸ hq)))⟩,
      fun hfree => hanswer (hclaim.trans (claim_unowned hfree))⟩
  · have hclaim := claimLine_output (p := p) (s := u) hout hlevel
    exact ⟨fun q hq => ⟨fun hne => hanswer (hclaim.trans (claim_held hq hne)),
      fun hqp => hanswer (hclaim.trans (claim_own (hqp ▸ hq)))⟩,
      fun hfree => hanswer (hclaim.trans (claim_unowned hfree))⟩

/-! ### RELEASE_LINE (R112, R127, R133) -/

section

variable {p : Port} {ps : List Byte} {s : State} {line : Line} {l : EvLine}

theorem releaseLine_noLine (h : 7 < (byteField ps 0).toNat) : releaseLine p ps s = refuse s .badParam := by
  unfold releaseLine
  rw [lineOf_eq_none.2 h]

theorem releaseLine_notClaimed (hline : lineOf (byteField ps 0) = some line) (h : s.ownerOf line ≠ some p) :
    releaseLine p ps s = refuse s .lineNotClaimed := by
  unfold releaseLine
  rw [hline]
  exact if_pos h

theorem releaseLine_released (hline : lineOf (byteField ps 0) = some line) (h : s.ownerOf line = some p) :
    releaseLine p ps s = okay (releaseOf line s) [BitVec.ofNat 8 (s.captureCount line)] := by
  unfold releaseLine
  rw [hline]
  exact if_neg (not_not_intro h)

theorem cancelArmingOn_other (h : ∀ a, s.events.arming = some a → a.line ≠ l) : cancelArmingOn l s = s := by
  unfold cancelArmingOn
  split
  · rename_i a ha
    exact if_neg (h a ha)
  · rfl

theorem cancelArmingOn_armed {a : Arming} (ha : s.events.arming = some a) (hl : a.line = l) :
    cancelArmingOn l s = report a.port s.stamp
      (.alignResult a.mode a.line a.target (.cancelled .lineReleased)) (s.putArming none) := by
  unfold cancelArmingOn
  rw [ha]
  exact (if_pos hl).trans (cancelArming_some _ ha)

/-- The cancellation leaves every event line as it stands. -/
theorem cancelArmingOn_lines (l : EvLine) (s : State) :
    (cancelArmingOn l s).events.lines = s.events.lines := by
  unfold cancelArmingOn
  split
  · split
    · rw [cancelArming_events]
    · rfl
  · rfl

theorem releaseEventLine_eq (l : EvLine) (s : State) :
    releaseEventLine l s = (cancelArmingOn l s).putLine l (.unclaimed (s.events.lines.get l).level) := by
  unfold releaseEventLine
  dsimp only
  rw [cancelArmingOn_lines]

end

/-- Settles O47: a line that the port owns goes back to its unclaimed settings, an event line behind the
cancellation of an align armed on it. -/
theorem releaseLineReturnsLine : Obligations.ReleaseLineReturnsLine := by
  intro p c d o s hex u answer
  have hanswer {r : Result} {bytes : List Byte} {t : State}
      (h : releaseLine p c.params u = ⟨t, ⟨r, bytes⟩⟩) : answer r bytes t := execution_answers hex h
  refine ⟨fun h => hanswer (releaseLine_noLine h), fun l hl => ?_, fun out hout => ?_⟩
  · have hline : lineOf (byteField c.params 0) = some (.event l) := hl ▸ lineOf_event_code l
    refine ⟨fun h => hanswer (releaseLine_notClaimed hline h), fun h => ⟨cancelArmingOn l u,
      hanswer ((releaseLine_released hline h).trans ?_), cancelArmingOn_other,
      fun a ha hal => cancelArmingOn_armed ha hal⟩⟩
    rw [releaseOf, releaseEventLine_eq]
    rfl
  · have hline : lineOf (byteField c.params 0) = some (.output out) := hout ▸ lineOf_output_code out
    exact ⟨fun h => hanswer (releaseLine_notClaimed hline h),
      fun h => hanswer (releaseLine_released hline h)⟩

/-! ### TAKE_CAPTURE (R119) -/

section

variable {p : Port} {ps : List Byte} {s : State} {l : EvLine}

theorem takeCapture_noLine (h : 3 < (byteField ps 0).toNat) : takeCapture p ps s = refuse s .badParam := by
  unfold takeCapture
  rw [eventLineOf_eq_none h]

theorem takeCapture_notClaimed (hl : byteField ps 0 = l.code) (h : (s.events.lines.get l).owner ≠ some p) :
    takeCapture p ps s = refuse s .lineNotClaimed := by
  unfold takeCapture
  rw [hl, eventLineOf_code]
  exact if_pos h

theorem takeCapture_empty (hl : byteField ps 0 = l.code) (howner : (s.events.lines.get l).owner = some p)
    (h : (s.events.lines.get l).captures = []) : takeCapture p ps s = refuse s .empty := by
  unfold takeCapture
  rw [hl, eventLineOf_code]
  dsimp only
  rw [if_neg (not_not_intro howner), h]

theorem takeCapture_head {head : Capture} {rest : List Capture} (hl : byteField ps 0 = l.code)
    (howner : (s.events.lines.get l).owner = some p) (h : (s.events.lines.get l).captures = head :: rest) :
    takeCapture p ps s = okay (s.putLine l { s.events.lines.get l with captures := rest })
      (head.bytes ++ [BitVec.ofNat 8 rest.length, BitVec.ofNat 8 (s.events.lines.get l).drops]) := by
  unfold takeCapture
  rw [hl, eventLineOf_code]
  dsimp only
  rw [if_neg (not_not_intro howner), h]

/-- A capture record in front of two bytes, spelled out as TAKE_CAPTURE answers it. -/
theorem Capture.bytes_append (x : Capture) (left drops : Byte) :
    x.bytes ++ [left, drops] = [x.stamp.epoch] ++ be 4 x.stamp.point.sec ++ be 4 x.stamp.point.ns ++
      [x.polarity.code, BitVec.ofNat 8 x.lostBefore, left, drops] := by
  simp [Capture.bytes, Stamp.bytes, Point.bytes]

end

/-- Settles O48: the line, its owner and its queue are checked in turn, and the head record is removed. -/
theorem takeCaptureRemovesHead : Obligations.TakeCaptureRemovesHead := by
  intro p c d o s hex hp answer
  have hanswer {r : Result} {bytes : List Byte} {t : State}
      (h : takeCapture p c.params s = ⟨t, ⟨r, bytes⟩⟩) : answer r bytes t :=
    execution_answers hex (by rw [State.settleTick_eq_self hp, h])
  refine ⟨fun h => hanswer (takeCapture_noLine h), fun l hl =>
    ⟨fun h => hanswer (takeCapture_notClaimed hl h), fun howner h => hanswer (takeCapture_empty hl howner h),
      fun head rest howner h => hanswer ?_⟩⟩
  rw [takeCapture_head hl howner h, Capture.bytes_append]
  rfl

/-! ### ARM_ALIGN and DISARM_ALIGN (R122, R126) -/

section

variable {p : Port} {ps : List Byte} {s : State} {m : AlignMode} {l : EvLine} {r : Result}

/-- Steps 2 to 5 of R122's table: the target, the guard, the line's owner, and an align already armed. -/
def armChecks (p : Port) (l : EvLine) (target : Point) (guard : Nat) (s : State) : List (Bool × Result) :=
  [(decide (999999999 < target.ns), .range), (decide (999999999 < guard), .range),
    (decide ((s.events.lines.get l).owner ≠ some p), .lineNotClaimed), (s.events.arming.isSome, .alignBusy)]

theorem armAlign_badParam (h : (byteField ps 0).toNat < 1 ∨ 2 < (byteField ps 0).toNat ∨
    3 < (byteField ps 1).toNat) : armAlign p ps s = refuse s .badParam := by
  unfold armAlign
  dsimp only
  rcases or_assoc.2 h with hmode | hline
  · rw [alignModeOf_eq_none.2 hmode]
  · rw [eventLineOf_eq_none hline]
    cases alignModeOf (byteField ps 0) <;> rfl

theorem armAlign_refused (hm : byteField ps 0 = m.code) (hl : byteField ps 1 = l.code)
    (h : firstFailing (armChecks p l (pointField ps 2) (field ps 10 4) s) = some r) :
    armAlign p ps s = refuse s r := by
  unfold armChecks at h
  unfold armAlign
  dsimp only
  rw [hm, hl, alignModeOf_code, eventLineOf_code]
  dsimp only
  rw [h]

theorem armAlign_armed (hm : byteField ps 0 = m.code) (hl : byteField ps 1 = l.code)
    (h : firstFailing (armChecks p l (pointField ps 2) (field ps 10 4) s) = none) :
    armAlign p ps s = okay (s.putArming (some ⟨m, l, pointField ps 2, field ps 10 4, p⟩))
      (Arming.bytes ⟨m, l, pointField ps 2, field ps 10 4, p⟩) := by
  unfold armChecks at h
  unfold armAlign
  dsimp only
  rw [hm, hl, alignModeOf_code, eventLineOf_code]
  dsimp only
  rw [h]

theorem disarmAlign_none (h : s.events.arming = none) : disarmAlign p ps s = refuse s .notArmed := by
  unfold disarmAlign
  rw [h]

theorem disarmAlign_armed {a : Arming} (h : s.events.arming = some a) :
    disarmAlign p ps s = okay (s.putArming none) a.bytes := by
  unfold disarmAlign
  rw [h]

theorem Arming.bytes_eq (a : Arming) :
    a.bytes = [a.mode.code, a.line.code] ++ be 4 a.target.sec ++ be 4 a.target.ns ++ be 4 a.guard := by
  simp [Arming.bytes, Point.bytes]

end

section

variable {p : Port} {l : EvLine} {target : Point} {guard : Nat} {s : State}

theorem armChecks_range (h : 999999999 < target.ns ∨ 999999999 < guard) :
    firstFailing (armChecks p l target guard s) = some .range := by
  simp only [armChecks, firstFailing_cons]
  rcases h with h | h <;> simp [h]

theorem armChecks_inRange (htarget : target.ns ≤ 999999999) (hguard : guard ≤ 999999999) :
    firstFailing (armChecks p l target guard s) =
      if (s.events.lines.get l).owner ≠ some p then some .lineNotClaimed
      else if s.events.arming.isSome then some .alignBusy else none := by
  simp [armChecks, firstFailing_cons, Nat.not_lt.2 htarget, Nat.not_lt.2 hguard]

theorem armChecks_notClaimed (htarget : target.ns ≤ 999999999) (hguard : guard ≤ 999999999)
    (h : (s.events.lines.get l).owner ≠ some p) :
    firstFailing (armChecks p l target guard s) = some .lineNotClaimed :=
  (armChecks_inRange htarget hguard).trans (if_pos h)

theorem armChecks_owned (htarget : target.ns ≤ 999999999) (hguard : guard ≤ 999999999)
    (h : (s.events.lines.get l).owner = some p) :
    firstFailing (armChecks p l target guard s) = if s.events.arming.isSome then some .alignBusy else none :=
  (armChecks_inRange htarget hguard).trans (if_neg (not_not_intro h))

end

/-- Settles O49: the rows of R122's table in order, and the arming made; the arming ended as it stands. -/
theorem alignArmedAndDisarmed : Obligations.AlignArmedAndDisarmed := by
  intro p c d o s u bytes
  have hbytes (a : Arming) : a.bytes = bytes a := a.bytes_eq
  refine ⟨fun hex => ?_, fun hex => ?_⟩
  · intro mode target guard answer
    have hanswer {r : Result} {payload : List Byte} {t : State}
        (h : armAlign p c.params u = ⟨t, ⟨r, payload⟩⟩) : answer r payload t := execution_answers hex h
    refine ⟨fun h => hanswer (armAlign_badParam h), fun m l hm hl =>
      ⟨fun h => hanswer (armAlign_refused hm hl (armChecks_range h)), fun htarget hguard =>
        ⟨fun h => hanswer (armAlign_refused hm hl (armChecks_notClaimed htarget hguard h)), fun howner =>
          ⟨fun h => ?_, fun h => ?_⟩⟩⟩⟩
    · have hbusy := (armChecks_owned htarget hguard howner).trans (if_pos (Option.isSome_iff_ne_none.2 h))
      exact hanswer (armAlign_refused hm hl hbusy)
    · have hpass := (armChecks_owned htarget hguard howner).trans (if_neg (by simp [h]))
      rw [← hbytes]
      exact hanswer (armAlign_armed hm hl hpass)
  · refine ⟨fun h => execution_answers hex (disarmAlign_none h), fun a ha => ?_⟩
    rw [← hbytes]
    exact execution_answers hex (disarmAlign_armed ha)

end Sys2Proof.Machine

/-! A recognized edge (R115 to R118, R123 to R125): what the edge select lets through, the capture stored or
dropped, and what the arming makes of it. -/

namespace Sys2Proof.Machine

open Claims

/-! ### The edge select, the stamp and the capture (R115 to R118) -/

@[simp] theorem State.putLine_putLine (s : State) (l : EvLine) (x y : EventLine) :
    (s.putLine l x).putLine l y = s.putLine l y := by
  simp [State.putLine]

theorem Polarity.of_eq (level : Level) : Polarity.of level = if level = .high then .rising else .falling := by
  cases level <;> rfl

/-- An edge select leaves out only the edges of the opposite polarity (R116). -/
theorem EdgeSelect.includes_of (x : EdgeSelect) (level : Level) :
    x.includes (.of level) = true ↔ x ≠ (if level = .high then .falling else .rising) := by
  cases x <;> cases level <;> decide

/-- The stamp of an edge is the point so many nanoseconds from 0 s 0 ns, written with its carry done. -/
theorem edgeStamp_eq {t : TimeBase} {compensation : Nat} {stamp : Stamp} (hepoch : stamp.epoch = t.epoch)
    (hns : stamp.point.ns ≤ 999999999) (hpoint : stamp.point.toNs = t.now.toNs - compensation) :
    edgeStamp t compensation = stamp := by
  unfold edgeStamp
  rw [← hepoch, ← hpoint, Point.ofNs_toNs hns]

/-- A selected edge captured: the line at its new level, and the record stored or dropped, before any arming
acts. -/
def captureEdge (l : EvLine) (level : Level) (q : Port) (stamp : Stamp) (u : State) : State :=
  capture l q stamp (.of level) (u.putLine l { u.events.lines.get l with level := level })

section

variable {l : EvLine} {level : Level} {q : Port} {u : State}

/-- An edge on an unclaimed line, or one that the select leaves out, moves the recognized level alone. -/
theorem recognizedEdge_unselected (h : (u.events.lines.get l).owner = none ∨
      (u.events.lines.get l).select = (if level = .high then .falling else .rising)) :
    recognizedEdge l level u = u.putLine l { u.events.lines.get l with level := level } := by
  unfold recognizedEdge
  dsimp only
  split
  · rfl
  · rename_i p hp
    have hselect := h.resolve_left (by simp [hp])
    exact if_neg fun hin => (EdgeSelect.includes_of _ level).1 hin hselect

/-- A selected edge is captured on the line at its new level, and then given to the arming. -/
theorem recognizedEdge_selected (howner : (u.events.lines.get l).owner = some q)
    (hselect : (u.events.lines.get l).select ≠ (if level = .high then .falling else .rising)) {stamp : Stamp}
    (hstamp : edgeStamp u.time (u.events.lines.get l).compensation = stamp) :
    recognizedEdge l level u =
      alignEdge l (u.events.lines.get l).compensation stamp (.of level)
        (decide ((u.events.lines.get l).captures.length < captureCapacity))
        (captureEdge l level q stamp u) := by
  subst hstamp
  unfold recognizedEdge
  dsimp only
  rw [howner]
  dsimp only
  rw [if_pos ((EdgeSelect.includes_of _ level).2 hselect)]
  unfold selectedEdge captureEdge
  simp [howner]

end

section

variable (l : EvLine) (level : Level) (q : Port) (stamp : Stamp) (u : State)

/-- The capture is what R117 and R118 say of a line whose level has just followed the pin. -/
theorem edgeStored_captureEdge : EdgeStored l level q stamp u (captureEdge l level q stamp u) := by
  unfold captureEdge
  refine ⟨fun hroom => ?_, fun hfull => ?_⟩
  · have hcapacity : (u.events.lines.get l).captures.length < captureCapacity := hroom
    simp [capture, EventLine.record, if_pos hcapacity, Polarity.of_eq]
  · have hcapacity : ¬ (u.events.lines.get l).captures.length < captureCapacity := Nat.not_lt.2 hfull
    have hstored : (u.events.lines.get l).captures ≠ [] := fun hnil => by simp [hnil] at hfull
    simp [capture, EventLine.record, if_neg hcapacity, if_neg hstored]

@[simp] theorem captureEdge_time : (captureEdge l level q stamp u).time = u.time := by
  unfold captureEdge capture
  dsimp only
  split
  · rw [report_time]
    rfl
  · rfl

@[simp] theorem captureEdge_arming : (captureEdge l level q stamp u).events.arming = u.events.arming := by
  unfold captureEdge capture
  dsimp only
  split
  · rw [report_events]
    rfl
  · rfl

@[simp] theorem captureEdge_stamp : (captureEdge l level q stamp u).stamp = u.stamp := by
  simp only [State.stamp, captureEdge_time]

end

theorem alignEdge_other {l : EvLine} {s : State} (compensation : Nat) (stamp : Stamp) (pol : Polarity)
    (stored : Bool) (h : ∀ a, s.events.arming = some a → a.line ≠ l) :
    alignEdge l compensation stamp pol stored s = s := by
  unfold alignEdge
  split
  · rfl
  · rename_i a ha
    exact if_neg (h a ha)

/-! ### EDGE_RECOGNIZED (R115, R130) -/

section

variable {l : EvLine} {level : Level} {held : Nat} {s : State}

/-- A change while nRESET is asserted, a shorter pulse, and a change to the recognized level are no edge. -/
theorem execEdgeRecognized_ignored (h : s.resetAsserted = true ∨ held < 30 ∨
    level = (s.events.lines.get l).level) : execEdgeRecognized l level held s = .next s := by
  refine if_neg ?_
  rintro ⟨hreset, hlevel, hheld⟩
  rcases h with h | h | h
  · rw [hreset] at h
    cases h
  · exact absurd hheld (Nat.not_le.2 h)
  · exact hlevel h

end

/-- Settles O50: what is no edge changes nothing, an edge that is not selected moves the level alone, and a
selected one is captured. -/
theorem edgeRecognizedAndCaptured : Obligations.EdgeRecognizedAndCaptured := by
  intro l level held s u x
  refine ⟨execEdgeRecognized_ignored, fun hreset hheld hlevel => ?_⟩
  have hexec : exec (.edgeRecognized l level held) s = .next (recognizedEdge l level u) :=
    execEdgeRecognized_of_edge hreset hlevel hheld
  refine ⟨fun h => ?_, fun q stamp howner hselect hepoch hns hpoint hunarmed =>
    ⟨_, ?_, edgeStored_captureEdge l level q stamp u⟩⟩
  · rw [hexec, recognizedEdge_unselected h]
  · rw [hexec, recognizedEdge_selected howner hselect (edgeStamp_eq hepoch hns hpoint), alignEdge_other]
    simpa using hunarmed

/-! ### The edge of an armed line (R20, R123 to R125) -/

/-- The offset is the target less the stamp, and positive where they are equal (R123). -/
theorem offsetFrom_eq {target stamp : Point} {offset : Offset} (htarget : target.ns ≤ 999999999)
    (hstamp : stamp.ns ≤ 999999999) (hsign : offset.negative = decide (target.toNs < stamp.toNs))
    (hns : offset.magnitude.ns ≤ 999999999)
    (hmagnitude : offset.magnitude.toNs = (target.toNs - stamp.toNs) + (stamp.toNs - target.toNs)) :
    offsetFrom target stamp = offset := by
  obtain ⟨negative, magnitude⟩ := offset
  dsimp only at hsign hns hmagnitude
  subst hsign
  have hsigned := Point.atOrBefore_iff_toNs_le hstamp htarget
  unfold offsetFrom
  split
  · rename_i hbefore
    have hle := hsigned.1 hbefore
    have hdifference : magnitude.toNs = target.toNs - stamp.toNs := by omega
    rw [Point.minus, ← hdifference, Point.ofNs_toNs hns, decide_eq_false (Nat.not_lt.2 hle)]
  · rename_i hafter
    have hlt := Nat.not_le.1 (mt hsigned.2 hafter)
    have hdifference : magnitude.toNs = stamp.toNs - target.toNs := by omega
    rw [Point.minus, ← hdifference, Point.ofNs_toNs hns, decide_eq_true hlt]

/-- A guard below a second is exceeded by a magnitude of more nanoseconds (R124). -/
theorem Offset.exceeds_iff {offset : Offset} {guard : Nat} (hns : offset.magnitude.ns ≤ 999999999)
    (hguard : guard ≤ 999999999) : offset.exceeds guard ↔ guard < offset.magnitude.toNs := by
  unfold Offset.exceeds Point.toNs nsPerSecond
  omega

/-- The value of an align step is the target plus the compensation, or the end of the scale (R20). -/
theorem alignValue_toNs (target : Point) (compensation : Nat) :
    (alignValue target compensation).toNs = min (target.toNs + compensation) 4294967295999999999 := by
  have hns : (Point.ofNs (target.toNs + compensation)).ns ≤ 999999999 := Nat.le_of_lt_succ (Point.ofNs_ns_lt _)
  have hmax : maxPoint.toNs = 4294967295999999999 := rfl
  have hbefore : (Point.ofNs (target.toNs + compensation)).atOrBefore maxPoint ↔
      target.toNs + compensation ≤ 4294967295999999999 := by
    rw [Point.atOrBefore_iff_toNs_le hns (Nat.le_refl _), Point.toNs_ofNs, hmax]
  unfold alignValue
  dsimp only
  split
  · rename_i hlow
    rw [Point.toNs_ofNs, Nat.min_eq_left (hbefore.1 hlow)]
  · rename_i hhigh
    rw [hmax, Nat.min_eq_right (Nat.le_of_not_le (mt hbefore.2 hhigh))]

section

variable {l : EvLine} {a : Arming} {s : State} (compensation : Nat) (stamp : Stamp) (pol : Polarity)
  (stored : Bool)

theorem alignEdge_measure (ha : s.events.arming = some a) (hl : a.line = l) (hmode : a.mode = .measure) :
    alignEdge l compensation stamp pol stored s = report a.port stamp
      (.offset l a.target stamp pol (offsetFrom a.target stamp.point) stored) s := by
  subst hl
  unfold alignEdge
  rw [ha]
  dsimp only
  rw [if_pos rfl, hmode]
  rfl

theorem alignEdge_step (ha : s.events.arming = some a) (hl : a.line = l) (hmode : a.mode = .step) :
    alignEdge l compensation stamp pol stored s = stepEdge a compensation stamp stored s := by
  unfold alignEdge
  rw [ha]
  dsimp only
  rw [if_pos hl, hmode]

theorem stepEdge_rejected (hguard : a.guard ≠ 0) (h : (offsetFrom a.target stamp.point).exceeds a.guard) :
    stepEdge a compensation stamp stored s = report a.port s.stamp
      (.alignResult .step a.line a.target (.rejected stamp (offsetFrom a.target stamp.point) stored))
      (s.putArming none) := if_pos ⟨hguard, h⟩

theorem stepEdge_stepped (h : a.guard = 0 ∨ ¬ (offsetFrom a.target stamp.point).exceeds a.guard) :
    stepEdge a compensation stamp stored s = reportNow a.port
      (.alignResult .step a.line a.target (.stepped stamp (offsetFrom a.target stamp.point) stored))
      (alignStep (alignValue a.target compensation) (s.putArming none)) :=
  if_neg fun hrejected => h.elim hrejected.1 (· hrejected.2)

end

/-- Settles O51: the edge is captured as any other, and the arming's mode and guard decide between OFFSET,
REJECTED and the align step. -/
theorem alignEdgeActs : Obligations.AlignEdgeActs := by
  intro l level held s a q stamp offset u x hreset hheld hlevel howner hselect harmed hline htarget hepoch hns
    hpoint hsign hmagnitudeNs hmagnitude stored pol value
  have hoffset : offsetFrom a.target stamp.point = offset :=
    offsetFrom_eq htarget hns hsign hmagnitudeNs hmagnitude
  have harmed' : (captureEdge l level q stamp u).events.arming = some a := (captureEdge_arming ..).trans harmed
  have hexec : exec (.edgeRecognized l level held) s =
      .next (alignEdge l x.compensation stamp (.of level) stored (captureEdge l level q stamp u)) :=
    (execEdgeRecognized_of_edge hreset hlevel hheld).trans
      (congrArg _ (recognizedEdge_selected howner hselect (edgeStamp_eq hepoch hns hpoint)))
  refine ⟨_, _, edgeStored_captureEdge l level q stamp u, hexec, fun hmode => ?_,
    fun hmode hguard hexceeds hlow => ?_, fun hmode hwithin hlow _ => ?_⟩
  · rw [alignEdge_measure _ _ _ _ harmed' hline hmode, hoffset, Polarity.of_eq]
  · have hrejected : (offsetFrom a.target stamp.point).exceeds a.guard := by
      rwa [hoffset, Offset.exceeds_iff hmagnitudeNs hlow]
    rw [alignEdge_step _ _ _ _ harmed' hline hmode, stepEdge_rejected _ _ _ hguard hrejected,
      captureEdge_stamp, hoffset, hline]
  · have haccepted : a.guard = 0 ∨ ¬ (offsetFrom a.target stamp.point).exceeds a.guard := by
      rwa [hoffset, Offset.exceeds_iff hmagnitudeNs hlow, Nat.not_lt]
    refine ⟨_, alignValue a.target x.compensation, alignValue_toNs _ _,
      Nat.le_of_lt_succ (alignValue_inRange _ _).2, timeChange_changeTime _ _ _ _ _, ?_⟩
    rw [alignEdge_step _ _ _ _ harmed' hline hmode, stepEdge_stepped _ _ _ haccepted, hoffset, hline]
    rfl

end Sys2Proof.Machine

/-! DRIVE_LINE and the four actions on an output line (R134, R135, R138, R139): what an action makes of a
stage, and the command's outcome, check by check. -/

namespace Sys2Proof.Machine

open Claims

/-! ### The actions (R134, R135, Table 7-1) -/

/-- Each action on a line with no pulse in flight and on one with a pulse. -/
theorem OutStage.acts_apply (now : Nat) (a : LineAction) (x : OutStage) : Acts now a x (x.apply now a) := by
  refine ⟨?turnOn, ?turnOff, ?toggle, ?pulse⟩
  case turnOn =>
    rintro rfl
    rfl
  case turnOff =>
    rintro rfl
    rfl
  case toggle =>
    rintro rfl
    unfold OutStage.apply
    cases x.pulse <;> rfl
  case pulse =>
    rintro w rfl
    refine ⟨fun hpulse => ?_, fun pl hpulse => ?_⟩ <;> rw [OutStage.apply, hpulse] <;> rfl

/-- With no tick outstanding, an action finds local elapsed time as it stands. -/
theorem applyAction_eq_putOut (out : OutLine) (a : LineAction) {s : State}
    (h : s.time.periods < periodsPerTick) :
    applyAction out a s = s.putOut out ((s.outputs.get out).apply s.time.elapsed a) := by
  rw [applyAction, TimeBase.settle_eq_self h]

/-! ### DRIVE_LINE (R138, R139) -/

/-- An action is read from its code and the width beside it (Table 10-1). -/
theorem actionOf_code {b : Byte} {w : Nat} {a : LineAction} (hb : b = a.code)
    (hw : ∀ w', a = .pulse w' → w' = w) : actionOf b w = some a := by
  subst hb
  cases a with
  | turnOn => rfl
  | turnOff => rfl
  | toggle => rfl
  | pulse w' =>
    obtain rfl := hw w' rfl
    rfl

theorem widthInRange_eq_false_iff {b : Byte} {w : Nat} {a : LineAction} (h : actionOf b w = some a) :
    a.widthInRange = false ↔ b.toNat = 4 ∧ (w < 1 ∨ 1000000 < w) := by
  rw [← action_width_bad, h, Option.all_some, Bool.not_eq_true']

section

variable {p : Port} {ps : List Byte} {s : State} {out : OutLine} {a : LineAction}

theorem driveLine_badParam (h : (byteField ps 0).toNat < 4 ∨ 7 < (byteField ps 0).toNat ∨
    (byteField ps 1).toNat < 1 ∨ 4 < (byteField ps 1).toNat) : driveLine p ps s = refuse s .badParam := by
  unfold driveLine
  rcases or_assoc.2 h with hline | haction
  · rw [outLineOf_eq_none.2 hline]
  · rw [actionOf_eq_none.2 haction]
    cases outLineOf (byteField ps 0) <;> rfl

theorem driveLine_range (hout : byteField ps 0 = out.code)
    (ha : actionOf (byteField ps 1) (field ps 2 4) = some a) (hwidth : a.widthInRange = false) :
    driveLine p ps s = refuse s .range := by
  unfold driveLine
  rw [hout, outLineOf_code, ha]
  exact if_pos hwidth

theorem driveLine_notClaimed (hout : byteField ps 0 = out.code)
    (ha : actionOf (byteField ps 1) (field ps 2 4) = some a) (hwidth : a.widthInRange ≠ false)
    (howner : s.events.outOwner.get out ≠ some p) : driveLine p ps s = refuse s .lineNotClaimed := by
  unfold driveLine
  rw [hout, outLineOf_code, ha]
  exact (if_neg hwidth).trans (if_pos howner)

theorem driveLine_driven (hout : byteField ps 0 = out.code)
    (ha : actionOf (byteField ps 1) (field ps 2 4) = some a) (hwidth : a.widthInRange ≠ false)
    (howner : s.events.outOwner.get out = some p) :
    driveLine p ps s = okay (applyAction out a s) ([(s.outputs.get out).level.code,
      ((applyAction out a s).outputs.get out).level.code] ++
        pulseBytes ((applyAction out a s).outputs.get out).pulse) := by
  unfold driveLine
  rw [hout, outLineOf_code, ha]
  exact (if_neg hwidth).trans (if_neg (not_not_intro howner))

end

/-- Settles O52: the line, the action, the width and the owner are checked in turn, and the answer shows the
stage that the action leaves. -/
theorem driveLineActs : Obligations.DriveLineActs := by
  refine ⟨fun p c d o s hex hp => ?_, fun out a s hp => ⟨_, applyAction_eq_putOut out a hp,
    OutStage.acts_apply _ _ _⟩⟩
  intro action width answer
  have hanswer {r : Result} {bytes : List Byte} {t : State}
      (h : driveLine p c.params s = ⟨t, ⟨r, bytes⟩⟩) : answer r bytes t :=
    execution_answers hex (by rw [State.settleTick_eq_self hp, h])
  refine ⟨fun h => hanswer (driveLine_badParam h), fun out a hout hcode hkept => ?_⟩
  have ha : actionOf (byteField c.params 1) width = some a := actionOf_code hcode hkept
  refine ⟨fun hpulse hbad =>
    hanswer (driveLine_range hout ha ((widthInRange_eq_false_iff ha).2 ⟨hpulse, hbad⟩)), fun hgood => ?_⟩
  have hwidth : a.widthInRange ≠ false := fun hbad => by
    obtain ⟨hpulse, hrange⟩ := (widthInRange_eq_false_iff ha).1 hbad
    have hwithin := hgood hpulse
    omega
  refine ⟨fun howner => hanswer (driveLine_notClaimed hout ha hwidth howner), fun howner =>
    ⟨_, hanswer ?_, OutStage.acts_apply _ _ _⟩⟩
  rw [driveLine_driven hout ha hwidth howner, applyAction_eq_putOut out a hp, State.putOut_outputs,
    PerOut.get_put]
  rfl

end Sys2Proof.Machine

/-! The Report Queues (R105, R145 to R155): nATTNn, where an arriving report is placed, and the commands on a
queue and its mask. -/

namespace Sys2Proof.Machine

open Claims

/-! ### Attention (R105, R155) -/

theorem reportsFlag_iff {s : State} {p : Port} : s.reportsFlag p = true ↔ (s.reports.get p).reports ≠ [] := by
  simp [State.reportsFlag]

theorem inboxAttention_iff {s : State} {p : Port} : s.inboxAttention p = true ↔
    (s.inboxes.get p).records ≠ [] ∧ (s.inboxes.get p).attention = true := by
  simp [State.inboxAttention, State.inboxFlag]

/-- Settles O21: the session gates both conditions of R155, each of which is a flag of the state. -/
theorem attentionLineAsserted : Obligations.AttentionLineAsserted := by
  intro p s
  have hasserted : s.attention p = true ↔ s.attached p ∧
      ((s.reports.get p).reports ≠ [] ∨
        ((s.inboxes.get p).records ≠ [] ∧ (s.inboxes.get p).attention = true)) := by
    rw [State.attention, Bool.and_eq_true, Bool.or_eq_true, decide_eq_true_iff, reportsFlag_iff,
      inboxAttention_iff]
  exact ⟨hasserted, fun hdetached => Bool.eq_false_iff.2 fun h => hdetached (hasserted.1 h).1⟩

/-! ### Where a report is placed (R147 to R149, R156) -/

section

variable {q : ReportQueue} {cause : Stamp} {body : ReportBody}

theorem ReportQueue.offer_folded (hon : q.mask[body.kind] = true) (hopen : q.lostOpen = true) :
    q.offer cause body = { q with reports := foldNewest cause q.reports } := by
  rw [ReportQueue.offer, if_neg (by simp [hon]), if_pos hopen]

theorem ReportQueue.offer_stored (hon : q.mask[body.kind] = true) (hclosed : q.lostOpen = false)
    (hroom : q.reports.length < reportCapacity - 1) : q.offer cause body = q.store cause body := by
  rw [ReportQueue.offer, if_neg (by simp [hon]), if_neg (by simp [hclosed]), if_pos hroom]

theorem ReportQueue.offer_lost (hon : q.mask[body.kind] = true) (hclosed : q.lostOpen = false)
    (hfull : ¬ q.reports.length < reportCapacity - 1) :
    q.offer cause body = { q.store cause (.reportsLost 1 cause) with lostOpen := true } := by
  rw [ReportQueue.offer, if_neg (by simp [hon]), if_neg (by simp [hclosed]), if_neg hfull]

end

theorem Report.fold_of_reportsLost {r : Report} {count : Nat} {newest : Stamp} (cause : Stamp)
    (h : r.body = .reportsLost count newest) :
    r.fold cause = { r with body := .reportsLost (min 65535 (count + 1)) cause } := by
  rw [Report.fold, h]

/-- Settles O20: a report that is not discarded is offered to its queue, where the mask, an open REPORTS_LOST
and the room decide in turn. -/
theorem reportPlacedInQueue : Obligations.ReportPlacedInQueue := by
  intro p cause body s q
  have hsame : s.putReports p q = s := by rw [State.putReports, PerPort.put_get]
  refine ⟨fun hnot => ?_, fun hattached hstays hon => ?_⟩
  · by_cases hoffer : s.attached p ∧ s.departing ≠ some p
    · obtain ⟨hattached, hstays⟩ := hoffer
      have hoff : q.mask[body.kind] = false :=
        (hnot.resolve_left (not_not_intro hattached)).resolve_left hstays
      rw [report_offered cause body ⟨hattached, hstays⟩, ReportQueue.offer_masked hoff, hsame]
    · exact report_discarded cause body hoffer
  · have hoffered : report p cause body s = s.putReports p (q.offer cause body) :=
      report_offered cause body ⟨hattached, hstays⟩
    refine ⟨fun front r count newest hopen hreports hlost => ?_, fun hclosed hroom => ?_,
      fun hclosed hfull => ?_⟩
    · rw [hoffered, ReportQueue.offer_folded hon hopen, hreports, foldNewest_append,
        Report.fold_of_reportsLost cause hlost]
    · rw [hoffered, ReportQueue.offer_stored hon hclosed (Nat.lt_succ_of_le hroom)]
      rfl
    · rw [hoffered, ReportQueue.offer_lost hon hclosed (Nat.not_lt.2 hfull)]
      rfl

/-! ### TAKE_REPORT (R150, R153, R177) -/

/-- The kind byte of a report record is the code of its kind (Table 10-13). -/
theorem reportCode_eq (body : ReportBody) : reportCode body = BitVec.ofNat 8 (body.kind.val + 1) := by
  cases body <;> rfl

theorem reportFields_eq (body : ReportBody) : reportFields body = body.bytes := by
  cases body <;> rfl

theorem Report.bytes_eq (r : Report) : r.bytes = [reportCode r.body] ++ be 2 r.sequence.toNat ++
    [r.cause.epoch] ++ be 4 r.cause.point.sec ++ be 4 r.cause.point.ns ++ reportFields r.body := by
  rw [Report.bytes, reportCode_eq, reportFields_eq]
  simp [Stamp.bytes, Point.bytes]

theorem takeReport_empty {p : Port} {ps : List Byte} {s : State} (h : (s.reports.get p).reports = []) :
    takeReport p ps s = refuse s .empty := by
  rw [takeReport, h]

theorem takeReport_head {p : Port} {ps : List Byte} {s : State} {r : Report} {rest : List Report}
    (h : (s.reports.get p).reports = r :: rest) : takeReport p ps s =
      okay (s.putReports p { s.reports.get p with reports := rest, lostOpen := false })
        (BitVec.ofNat 8 rest.length :: r.bytes) := by
  rw [takeReport, h]

/-! ### SET_REPORT_MASK (R148) -/

theorem settingOf_isNone_iff {b : Byte} : (settingOf b).isNone = true ↔ b ≠ 0 ∧ b ≠ 1 := by
  revert b
  decide

theorem settingOf_eq_off_iff {b : Byte} : settingOf b = some false ↔ b = 0 := by
  revert b
  decide

/-- Of thirteen setting bytes and more, one of the first thirteen is no setting. -/
theorem badSetting_iff {ps : List Byte} (hlength : 13 ≤ ps.length) :
    ((ps.take 13).any fun b => (settingOf b).isNone) = true ↔
      ∃ k < 13, byteField ps k ≠ 0 ∧ byteField ps k ≠ 1 := by
  simp only [List.any_eq_true, List.mem_take_iff_getElem, settingOf_isNone_iff]
  constructor
  · rintro ⟨b, ⟨k, hk, rfl⟩, hbad⟩
    have hk' : k < ps.length := by omega
    exact ⟨k, by omega, by rwa [byteField, List.getD_eq_getElem _ _ hk']⟩
  · rintro ⟨k, hk, hbad⟩
    have hk' : k < ps.length := by omega
    rw [byteField, List.getD_eq_getElem _ _ hk'] at hbad
    exact ⟨ps[k], ⟨k, by omega, rfl⟩, hbad⟩

theorem maskField_get (ps : List Byte) {k : Nat} (h : k < 13) :
    (maskField ps)[k] = true ↔ byteField ps k = 1 := by
  interval_cases k <;> simp [maskField]

theorem setReportMask_refused {p : Port} {ps : List Byte} {s : State} (hlength : 13 ≤ ps.length)
    (h : (∃ k < 13, byteField ps k ≠ 0 ∧ byteField ps k ≠ 1) ∨ byteField ps 12 = 0) :
    setReportMask p ps s = refuse s .badParam := by
  rw [← badSetting_iff hlength, ← settingOf_eq_off_iff] at h
  exact if_pos h

theorem setReportMask_set {p : Port} {ps : List Byte} {s : State} (hlength : 13 ≤ ps.length)
    (h : ¬ ((∃ k < 13, byteField ps k ≠ 0 ∧ byteField ps k ≠ 1) ∨ byteField ps 12 = 0)) :
    setReportMask p ps s = okay (s.putReports p { s.reports.get p with mask := maskField ps })
      ((s.reports.get p).mask.toList.map markByte ++
        [BitVec.ofNat 8 (s.reports.get p).reports.length]) := by
  rw [← badSetting_iff hlength, ← settingOf_eq_off_iff] at h
  exact if_neg h

/-- Settles O19: the head goes out as its record, and the mask is replaced where all thirteen bytes are
settings and the last is ON. -/
theorem reportCommands : Obligations.ReportCommands := by
  intro p c d o s u q
  refine ⟨fun hex => ⟨fun hempty => ?_, fun r rest hhead => ?_⟩, fun hex => ?_⟩
  · exact execution_answers hex (takeReport_empty hempty)
  · refine execution_answers hex ((takeReport_head hhead).trans ?_)
    rw [Report.bytes_eq]
    rfl
  · obtain ⟨-, -, -, -, hlength⟩ := id hex
    refine ⟨fun hbad => execution_answers hex (setReportMask_refused hlength hbad), fun hall hon =>
      ⟨maskField c.params, execution_answers hex (setReportMask_set hlength ?_),
        fun k hk => maskField_get c.params hk⟩⟩
    rintro (⟨k, hk, hnot0, hnot1⟩ | hoff)
    · exact (hall k hk).elim hnot0 hnot1
    · rw [hon] at hoff
      cases hoff

end Sys2Proof.Machine

/-! The bounds of the queues and the promises of the output lines (R92, R117, R131, R145, R149): what each
operation of the part keeps of them, releases, the clock and the end of a session included. -/

namespace Sys2Proof.Machine

/-! ### A report queue (R145, R149, R150) -/

@[simp] theorem Report.fold_sequence (cause : Stamp) (r : Report) : (r.fold cause).sequence = r.sequence := by
  unfold Report.fold
  split <;> rfl

theorem Report.fold_isLost {cause : Stamp} {r : Report} (h : r.body.isLost = true) :
    (r.fold cause).body.isLost = true := by
  unfold Report.fold
  split
  · rfl
  · exact h

theorem foldNewest_sequences (cause : Stamp) (rs : List Report) :
    (foldNewest cause rs).map (·.sequence) = rs.map (·.sequence) := by
  rcases List.eq_nil_or_concat rs with rfl | ⟨front, r, rfl⟩
  · rfl
  · simp [foldNewest_append]

theorem foldNewest_newest_isLost (cause : Stamp) {rs : List Report}
    (h : (rs.getLast?.any fun r => r.body.isLost) = true) :
    ((foldNewest cause rs).getLast?.any fun r => r.body.isLost) = true := by
  rcases List.eq_nil_or_concat rs with rfl | ⟨front, r, rfl⟩
  · exact h
  · simp only [List.concat_eq_append, foldNewest_append, List.getLast?_concat, Option.any_some] at h ⊢
    exact Report.fold_isLost h

/-- A report stored at the tail takes the counter's value, and the counter moves past it (R145). -/
theorem sequencesRise_store {q : ReportQueue} (h : SequencesRise q) (cause : Stamp) (body : ReportBody) :
    SequencesRise (q.store cause body) := by
  have hearlier : ∀ k ∈ List.range q.reports.length,
      q.nextSequence - BitVec.ofNat 16 (q.reports.length - k) =
        q.nextSequence + 1 - BitVec.ofNat 16 (q.reports.length + 1 - k) := fun k hk => by
    rw [Nat.sub_add_comm (List.mem_range.1 hk).le, BitVec.ofNat_add]
    exact (add_sub_add_right_eq_sub _ _ _).symm
  have hnewest : q.nextSequence = q.nextSequence + 1 - BitVec.ofNat 16 (q.reports.length + 1 - q.reports.length) := by
    rw [Nat.add_sub_cancel_left]
    exact (add_sub_cancel_right _ _).symm
  unfold SequencesRise ReportQueue.store at *
  simp only [List.map_append, List.map_cons, List.map_nil, List.length_append, List.length_cons, List.length_nil,
    Nat.zero_add, List.range_succ, h]
  rw [List.map_congr_left hearlier, ← hnewest]

/-- The head taken leaves the others' numbers and the counter as they are (R153). -/
theorem sequencesRise_tail {q : ReportQueue} {r : Report} {rest : List Report} (h : SequencesRise q)
    (hhead : q.reports = r :: rest) : SequencesRise { q with reports := rest, lostOpen := false } := by
  unfold SequencesRise at *
  rw [hhead] at h
  simp only [List.length_cons, List.range_succ_eq_map, List.map_cons, List.map_map, List.cons.injEq] at h
  obtain ⟨-, hrest⟩ := h
  rw [hrest]
  refine List.map_congr_left fun k _ => ?_
  simp [Nat.add_sub_add_right]

theorem reportsSound_offer {q : ReportQueue} (h : ReportsSound q) (cause : Stamp) (body : ReportBody) :
    ReportsSound (q.offer cause body) := by
  obtain ⟨hmask, hrise, hroom⟩ := id h
  rcases q.offer_cases cause body with hsame | ⟨hopen, hfold⟩ | ⟨hclosed, hfew, hstore⟩ | ⟨hclosed, hfull, hlost⟩
  · rwa [hsame]
  · rw [if_pos hopen] at hroom
    obtain ⟨hlength, hnewest⟩ := hroom
    rw [hfold]
    refine ⟨hmask, ?_, ?_⟩
    · unfold SequencesRise at *
      rw [foldNewest_sequences, foldNewest_length, hrise]
    · rw [if_pos hopen]
      exact ⟨(foldNewest_length cause _).trans hlength, foldNewest_newest_isLost cause hnewest⟩
  · rw [hstore]
    refine ⟨hmask, sequencesRise_store hrise cause body, ?_⟩
    have hlength : (q.store cause body).reports.length = q.reports.length + 1 := List.length_append
    rw [show (q.store cause body).lostOpen = false from hclosed, if_neg Bool.false_ne_true, hlength]
    exact hfew
  · rw [if_neg (by simp [hclosed])] at hroom
    rw [hlost]
    refine ⟨hmask, sequencesRise_store hrise cause _, ?_⟩
    rw [if_pos rfl]
    refine ⟨?_, by simp [ReportQueue.store, ReportBody.isLost]⟩
    have hcapacity : q.reports.length + 1 = reportCapacity := by
      rw [Nat.le_antisymm hroom hfull]
      rfl
    simpa [ReportQueue.store] using hcapacity

theorem reportsSound_tail {q : ReportQueue} {r : Report} {rest : List Report} (h : ReportsSound q)
    (hhead : q.reports = r :: rest) : ReportsSound { q with reports := rest, lostOpen := false } := by
  obtain ⟨hmask, hrise, hroom⟩ := h
  refine ⟨hmask, sequencesRise_tail hrise hhead, ?_⟩
  rw [if_neg Bool.false_ne_true]
  rw [hhead, List.length_cons] at hroom
  split at hroom
  · obtain ⟨hlength, -⟩ := hroom
    exact Nat.le_sub_one_of_lt (hlength ▸ Nat.lt_succ_self _)
  · exact (Nat.le_succ _).trans hroom

theorem reportsSound_ended (q : ReportQueue) : ReportsSound q.ended := by
  refine ⟨?_, rfl, ?_⟩
  · simp [ReportQueue.ended, ReportQueue.reset]
  · exact Nat.zero_le _

/-! ### An event line and an output line (R117, R131) -/

/-- The capture records and the drop count of an event line within their bounds (R117). -/
abbrev EventLine.Bounded (x : EventLine) : Prop := x.captures.length ≤ captureCapacity ∧ x.drops ≤ 255

theorem EventLine.bounded_emptied {x : EventLine} (hcaptures : x.captures = []) (hdrops : x.drops = 0) :
    x.Bounded := by
  rw [EventLine.Bounded, hcaptures, hdrops]
  exact ⟨Nat.zero_le _, Nat.zero_le _⟩

theorem EventLine.bounded_record {x : EventLine} (h : x.Bounded) (stamp : Stamp) (pol : Polarity) :
    (x.record stamp pol).Bounded := by
  obtain ⟨hcaptures, -⟩ := h
  unfold EventLine.record
  split
  · rename_i hroom
    exact ⟨by simpa using hroom, Nat.zero_le _⟩
  · exact ⟨hcaptures, Nat.min_le_left _ _⟩

/-- A stage with its line's owner: LOW and idle without one, a pulse's level opposite to its return level
(R131). -/
abbrev OutStage.Sound (owner : Option Port) (x : OutStage) : Prop :=
  (owner = none → x = .idle) ∧ ∀ pl ∈ x.pulse, x.level = pl.returnLevel.opposite

theorem OutStage.sound_of_no_pulse (p : Port) (level : Level) : OutStage.Sound (some p) ⟨level, none⟩ :=
  ⟨nofun, nofun⟩

theorem OutStage.sound_idle (owner : Option Port) : OutStage.Sound owner .idle := ⟨fun _ => rfl, nofun⟩

/-- An action on a claimed line leaves its pulse, if any, opposite to the return level (R134, R135). -/
theorem OutStage.sound_apply {p : Port} {x : OutStage} (h : x.Sound (some p)) (now : Nat) (a : LineAction) :
    (x.apply now a).Sound (some p) := by
  obtain ⟨-, hopposite⟩ := h
  cases a with
  | turnOn => exact OutStage.sound_of_no_pulse p _
  | turnOff => exact OutStage.sound_of_no_pulse p _
  | toggle =>
    unfold OutStage.apply
    cases x.pulse <;> exact OutStage.sound_of_no_pulse p _
  | pulse w =>
    refine ⟨nofun, fun pl hpl => ?_⟩
    unfold OutStage.apply at hpl ⊢
    cases hx : x.pulse with
    | none =>
      rw [hx] at hpl
      cases hpl
      rfl
    | some old =>
      rw [hx] at hpl
      cases hpl
      exact hopposite old hx

/-- The end of a pulse leaves a line without one, and an unclaimed line has none to end (R136). -/
theorem OutStage.sound_pulseEnd {owner : Option Port} {x : OutStage} {pl : Pulse} (h : x.Sound owner)
    (hpl : x.pulse = some pl) : OutStage.Sound owner ⟨pl.returnLevel, none⟩ := by
  obtain ⟨hidle, -⟩ := h
  refine ⟨fun howner => ?_, nofun⟩
  rw [hidle howner] at hpl
  cases hpl

/-! ### What an operation keeps -/

/-- Each queue that is within its bounds stays so, and each output line that is sound. -/
structure KeepsBounds (s t : State) : Prop where
  reports : ∀ p, ReportsSound (s.reports.get p) → ReportsSound (t.reports.get p)
  inbox : ∀ p, (s.inboxes.get p).records.length ≤ inboxCapacity →
    (t.inboxes.get p).records.length ≤ inboxCapacity
  line : ∀ l, (s.events.lines.get l).Bounded → (t.events.lines.get l).Bounded
  output : ∀ o, (s.outputs.get o).Sound (s.events.outOwner.get o) →
    (t.outputs.get o).Sound (t.events.outOwner.get o)

theorem EvLine.mem_all (l : EvLine) : l ∈ EvLine.all := by
  cases l <;> decide

theorem KeepsBounds.queuesBounded {s t : State} (h : KeepsBounds s t) (hs : QueuesBounded s) :
    QueuesBounded t := by
  obtain ⟨hports, hlines⟩ := hs
  exact ⟨fun p hp => ⟨h.reports p (hports p hp).1, h.inbox p (hports p hp).2⟩,
    fun l hl => h.line l (hlines l hl)⟩

theorem KeepsBounds.outputsSound {s t : State} (h : KeepsBounds s t) (hs : OutputsSound s) : OutputsSound t :=
  fun o ho => h.output o (hs o ho)

theorem keepsBounds_of_sound {t : State} (hqueues : QueuesBounded t) (houtputs : OutputsSound t) (s : State) :
    KeepsBounds s t := by
  obtain ⟨hports, hlines⟩ := hqueues
  exact ⟨fun p _ => (hports p (Port.mem_all p)).1, fun p _ => (hports p (Port.mem_all p)).2,
    fun l _ => hlines l (EvLine.mem_all l), fun o _ => houtputs o (OutLine.mem_all o)⟩

theorem keepsBounds_of_eq {s t : State} (hr : t.reports = s.reports) (hi : t.inboxes = s.inboxes)
    (hl : t.events.lines = s.events.lines) (ho : t.events.outOwner = s.events.outOwner)
    (hx : t.outputs = s.outputs) : KeepsBounds s t where
  reports p h := by rwa [hr]
  inbox p h := by rwa [hi]
  line l h := by rwa [hl]
  output o h := by rwa [ho, hx]

theorem KeepsBounds.refl (s : State) : KeepsBounds s s := keepsBounds_of_eq rfl rfl rfl rfl rfl

theorem KeepsBounds.trans {a b c : State} (h : KeepsBounds a b) (k : KeepsBounds b c) : KeepsBounds a c where
  reports p ha := k.reports p (h.reports p ha)
  inbox p ha := k.inbox p (h.inbox p ha)
  line l ha := k.line l (h.line l ha)
  output o ha := k.output o (h.output o ha)

theorem keepsBounds_foldl {α : Type} {f : State → α → State} (h : ∀ s x, KeepsBounds s (f s x)) (l : List α)
    (s : State) : KeepsBounds s (l.foldl f s) := by
  induction l generalizing s with
  | nil => exact .refl s
  | cons x l ih => exact (h s x).trans (ih (f s x))

/-! ### One part of the state replaced -/

theorem keepsBounds_time (s : State) (t : TimeBase) : KeepsBounds s { s with time := t } :=
  keepsBounds_of_eq rfl rfl rfl rfl rfl

theorem keepsBounds_authority (s : State) (a : Authority) : KeepsBounds s { s with authority := a } :=
  keepsBounds_of_eq rfl rfl rfl rfl rfl

theorem keepsBounds_store (s : State) (st : Store) : KeepsBounds s { s with store := st } :=
  keepsBounds_of_eq rfl rfl rfl rfl rfl

theorem keepsBounds_calendar (s : State) (c : Calendar) : KeepsBounds s { s with calendar := c } :=
  keepsBounds_of_eq rfl rfl rfl rfl rfl

theorem keepsBounds_putPort (s : State) (p : Port) (x : HostPort) : KeepsBounds s (s.putPort p x) :=
  keepsBounds_of_eq rfl rfl rfl rfl rfl

theorem keepsBounds_putArming (s : State) (x : Option Arming) : KeepsBounds s (s.putArming x) :=
  keepsBounds_of_eq rfl rfl rfl rfl rfl

theorem keepsBounds_settleTick (s : State) : KeepsBounds s s.settleTick := keepsBounds_time s _

theorem keepsBounds_putReports {s : State} {p : Port} {x : ReportQueue}
    (h : ReportsSound (s.reports.get p) → ReportsSound x) : KeepsBounds s (s.putReports p x) where
  reports q hq := by
    rw [State.putReports_reports, PerPort.get_put_eq]
    split
    · rename_i hqp
      exact h (hqp ▸ hq)
    · exact hq
  inbox _ := id
  line _ := id
  output _ := id

theorem keepsBounds_putInbox {s : State} {p : Port} {x : Inbox}
    (h : (s.inboxes.get p).records.length ≤ inboxCapacity → x.records.length ≤ inboxCapacity) :
    KeepsBounds s (s.putInbox p x) where
  reports _ := id
  inbox q hq := by
    rw [State.putInbox_inboxes, PerPort.get_put_eq]
    split
    · rename_i hqp
      exact h (hqp ▸ hq)
    · exact hq
  line _ := id
  output _ := id

theorem keepsBounds_putLine {s : State} {l : EvLine} {x : EventLine}
    (h : (s.events.lines.get l).Bounded → x.Bounded) : KeepsBounds s (s.putLine l x) where
  reports _ := id
  inbox _ := id
  line k hk := by
    rw [State.putLine_events, PerEv.get_put_eq]
    split
    · rename_i hkl
      exact h (hkl ▸ hk)
    · exact hk
  output _ := id

/-- The owner of an output line and its stage together. -/
theorem keepsBounds_putOutOwner {s : State} (o : OutLine) {owner : Option Port} {x : OutStage}
    (h : x.Sound owner) : KeepsBounds s ((s.putOut o x).putOutOwner o owner) where
  reports _ := id
  inbox _ := id
  line _ := id
  output k hk := by
    simp only [State.putOutOwner_outputs, State.putOut_outputs, State.putOutOwner_events,
      State.putOut_events, PerOut.get_put_eq]
    split
    · exact h
    · exact hk

theorem keepsBounds_putOut {s : State} {o : OutLine} {x : OutStage}
    (h : (s.outputs.get o).Sound (s.events.outOwner.get o) → x.Sound (s.events.outOwner.get o)) :
    KeepsBounds s (s.putOut o x) where
  reports _ := id
  inbox _ := id
  line _ := id
  output k hk := by
    rw [State.putOut_outputs, State.putOut_events, PerOut.get_put_eq]
    split
    · rename_i hko
      exact hko ▸ h (hko ▸ hk)
    · exact hk

/-! ### Reports -/

theorem keepsBounds_report (p : Port) (cause : Stamp) (b : ReportBody) (s : State) :
    KeepsBounds s (report p cause b s) := by
  unfold report
  split
  · exact keepsBounds_putReports fun h => reportsSound_offer h cause b
  · exact .refl s

theorem keepsBounds_reportNow (p : Port) (b : ReportBody) (s : State) : KeepsBounds s (reportNow p b s) :=
  keepsBounds_report _ _ _ _

theorem keepsBounds_reportHolder (b : ReportBody) (s : State) : KeepsBounds s (reportHolder b s) := by
  unfold reportHolder
  split
  · exact keepsBounds_reportNow _ _ s
  · exact .refl s

theorem keepsBounds_cancelArming (cause : CancelCause) (s : State) : KeepsBounds s (cancelArming cause s) := by
  unfold cancelArming
  split
  · exact .refl s
  · exact (keepsBounds_putArming s none).trans (keepsBounds_reportNow _ _ _)

/-! ### Releases (R73 to R76, R95, R140) -/

theorem keepsBounds_finishEntry (i : RecordNo) (e : Entry) (cause : FinishCause) (s : State) :
    KeepsBounds s (finishEntry i e cause s) := by
  rw [finishEntry_eq]
  exact keepsBounds_of_eq rfl rfl rfl rfl rfl

/-- Only an inbox with room is given a record (Table 5-2). -/
theorem length_lt_of_placementTest {s : State} {p : Port} (h : placementTest s p = none) :
    (s.inboxes.get p).records.length < inboxCapacity := by
  unfold placementTest at h
  split at h
  · cases h
  · split at h
    · cases h
    · split at h
      · cases h
      · rename_i hroom
        exact Nat.not_le.1 hroom

theorem keepsBounds_visit (o : Occurrence) (h : Handle) (x : Placement) (p : Port) :
    KeepsBounds x.state (visit o h x p).state := by
  unfold visit
  split
  · exact .refl _
  · rename_i htest
    have hplaced : KeepsBounds x.state
        (x.state.putInbox p ((x.state.inboxes.get p).append (deliveryRecord x.state o h))) :=
      keepsBounds_putInbox fun _ => by
        rw [Inbox.append, List.length_append]
        exact length_lt_of_placementTest htest
    exact hplaced.trans (keepsBounds_store _ _)

theorem keepsBounds_placeAll (o : Occurrence) (ts : PerPort Bool) (h : Handle) (s : State) :
    KeepsBounds s (placeAll o ts h s).state := by
  have go : ∀ (ps : List Port) (x : Placement), KeepsBounds x.state (ps.foldl (visit o h) x).state := by
    intro ps
    induction ps with
    | nil => exact fun x => .refl x.state
    | cons p rest ih => exact fun x => (keepsBounds_visit o h x p).trans (ih _)
  exact go (Port.all.filter fun p => ts.get p) ⟨s, ⟨false, false, false, false⟩, []⟩

/-- An action on a line that some port owns. -/
theorem keepsBounds_applyAction {o : OutLine} {p : Port} {s : State} (a : LineAction)
    (howner : s.events.outOwner.get o = some p) : KeepsBounds s (applyAction o a s) :=
  keepsBounds_putOut fun h => by
    rw [howner] at h ⊢
    exact OutStage.sound_apply h _ a

theorem keepsBounds_handOn (o : Occurrence) (a : EntryAction) (s : State) : KeepsBounds s (handOn o a s).1 := by
  cases a with
  | deliver ts h =>
    change KeepsBounds s (deliverOccurrence o ts h s).1
    unfold deliverOccurrence
    dsimp only
    split
    · exact keepsBounds_placeAll o ts h s
    · exact (keepsBounds_placeAll o ts h s).trans (keepsBounds_reportNow _ _ _)
  | line out act =>
    by_cases h : s.events.outOwner.get out = some o.owner
    · rw [handOn_line_driven act h]
      exact keepsBounds_applyAction act h
    · rw [handOn_line_refused act h]
      exact keepsBounds_reportNow _ _ s

theorem keepsBounds_reportRelease (e : Entry) (o : Occurrence) (x : ReleaseOutcome) (s : State) :
    KeepsBounds s (reportRelease e o x s) := by
  unfold reportRelease
  split
  · exact keepsBounds_reportNow _ _ s
  · exact .refl s

theorem keepsBounds_settleFate (i : RecordNo) (h : Handle) (e : Entry) (fate : Fate) (s : State) :
    KeepsBounds s (settleFate i h e fate s) := by
  cases fate with
  | rearm next => exact keepsBounds_calendar s _
  | finish cause => exact (keepsBounds_finishEntry i e cause s).trans (keepsBounds_reportNow _ _ _)

theorem keepsBounds_releaseEntry (late : Bool) (s : State) (i : RecordNo) :
    KeepsBounds s (releaseEntry late s i) := by
  unfold releaseEntry
  split
  · exact ((keepsBounds_handOn _ _ s).trans (keepsBounds_reportRelease _ _ _ _)).trans
      (keepsBounds_settleFate _ _ _ _ _)
  · exact .refl s

theorem keepsBounds_releaseDue (late : Bool) (s : State) : KeepsBounds s (releaseDue late s) :=
  keepsBounds_foldl (keepsBounds_releaseEntry late) _ s

theorem keepsBounds_releaseIfRunning (late : Bool) (s : State) : KeepsBounds s (releaseIfRunning late s) := by
  unfold releaseIfRunning
  split
  · exact keepsBounds_releaseDue late s
  · exact .refl s

theorem keepsBounds_releaseIfDue (late : Bool) (i : RecordNo) (r : Point) (s : State) :
    KeepsBounds s (releaseIfDue late i r s) := by
  unfold releaseIfDue
  split
  · exact keepsBounds_releaseEntry late s i
  · exact .refl s

theorem keepsBounds_resume (s : State) : KeepsBounds s (resume s) := by
  by_cases h : s.running
  · rw [resume_running h]
    exact .refl s
  · rw [resume_held h]
    exact (keepsBounds_calendar s _).trans (keepsBounds_releaseDue true _)

/-! ### Time changes, slews and the clock (R4, R10, R18, R136) -/

theorem keepsBounds_changeTime (new : Point) (frac : Nat) (ts : TimeState) (cause : ChangeCause) (s : State) :
    KeepsBounds s (changeTime new frac ts cause s) :=
  ((keepsBounds_time s _).trans (keepsBounds_foldl (fun s p => keepsBounds_report p _ _ s) Port.all _)).trans
    (keepsBounds_releaseIfRunning true _)

theorem keepsBounds_endSlew (cause : SlewCause) (s : State) : KeepsBounds s (endSlew cause s) := by
  unfold endSlew
  split
  · exact .refl s
  · exact (keepsBounds_time s _).trans (keepsBounds_reportHolder _ _)

theorem keepsBounds_slewEnd (s : State) : KeepsBounds s (slewEnd s) := by
  unfold slewEnd
  split
  · split
    · exact keepsBounds_endSlew _ s
    · exact .refl s
  · exact .refl s

theorem keepsBounds_pulseEnd (o : OutLine) (s : State) : KeepsBounds s (pulseEnd o s) := by
  unfold pulseEnd
  split
  · rename_i hpl
    split
    · exact keepsBounds_putOut fun h => OutStage.sound_pulseEnd h hpl
    · exact .refl s
  · exact .refl s

theorem keepsBounds_takeEnd (n : Nat) (s : State) : KeepsBounds s (takeEnd n s) := by
  unfold takeEnd
  split
  · exact keepsBounds_slewEnd s
  · exact keepsBounds_pulseEnd _ s
  · exact keepsBounds_pulseEnd _ s
  · exact keepsBounds_pulseEnd _ s
  · exact keepsBounds_pulseEnd _ s
  · exact .refl s

theorem keepsBounds_takeEnds (l : List Nat) (s : State) : KeepsBounds s (l.foldl (fun s k => takeEnd k s) s) :=
  keepsBounds_foldl (fun s k => keepsBounds_takeEnd k s) l s

theorem keepsBounds_advance (s : State) : KeepsBounds s (advance s) := by
  unfold advance
  dsimp only
  split
  · exact (keepsBounds_time s _).trans (keepsBounds_changeTime _ _ _ _ _)
  · exact (keepsBounds_time s _).trans (keepsBounds_releaseIfRunning false _)

/-! ### The loss of the authority (R33, R34) -/

theorem keepsBounds_handover (former : Port) (cause : LossCause) (s : State) :
    KeepsBounds s (handover former cause s) := by
  unfold handover
  split
  · exact .refl s
  · exact (keepsBounds_authority s _).trans (keepsBounds_reportNow _ _ _)

theorem keepsBounds_reportLoss (h : Holder) (cause : LossCause) (s : State) :
    KeepsBounds s (reportLoss h cause s) := by
  unfold reportLoss
  split
  · exact keepsBounds_reportNow _ _ s
  · exact .refl s

theorem keepsBounds_loseAuthority (h : Holder) (cause : LossCause) (s : State) :
    KeepsBounds s (loseAuthority h cause s) :=
  ((((keepsBounds_authority s _).trans (keepsBounds_reportLoss h cause _)).trans
    (keepsBounds_cancelArming _ _)).trans (keepsBounds_resume _)).trans (keepsBounds_handover _ _ _)

theorem keepsBounds_leaseExpiry (s : State) : KeepsBounds s (leaseExpiry s) := by
  unfold leaseExpiry
  split
  · split
    · exact keepsBounds_loseAuthority _ _ s
    · exact .refl s
  · exact .refl s

theorem keepsBounds_takeDueEnds (s : State) : KeepsBounds s (takeDueEnds s) := by
  have hdrawn : KeepsBounds s { s with draws := s.draws + 1 } := keepsBounds_of_eq rfl rfl rfl rfl rfl
  unfold takeDueEnds
  split
  · exact ((hdrawn.trans (keepsBounds_takeEnds _ _)).trans (keepsBounds_leaseExpiry _)).trans
      (keepsBounds_takeEnds _ _)
  · exact keepsBounds_takeEnds _ s

/-! ### Lines released (R112, R133) -/

theorem keepsBounds_releaseOf (line : Line) (s : State) : KeepsBounds s (releaseOf line s) := by
  cases line with
  | event l =>
    have hcancelled : KeepsBounds s (cancelArmingOn l s) := by
      unfold cancelArmingOn
      split
      · split
        · exact keepsBounds_cancelArming _ s
        · exact .refl s
      · exact .refl s
    exact hcancelled.trans (keepsBounds_putLine fun _ => EventLine.bounded_emptied rfl rfl)
  | output o => exact keepsBounds_putOutOwner o (OutStage.sound_idle none)

/-! ### The end of a session (R169, Table 9-2) -/

theorem keepsBounds_endEntry (p : Port) (s : State) (i : RecordNo) : KeepsBounds s (endEntry p s i) := by
  unfold endEntry
  split
  · split
    · exact keepsBounds_finishEntry _ _ _ s
    · exact .refl s
  · exact .refl s

theorem keepsBounds_endAuthority (p : Port) (s : State) : KeepsBounds s (endAuthority p s) := by
  unfold endAuthority
  split
  · split
    · exact keepsBounds_loseAuthority _ _ s
    · exact keepsBounds_authority s _
  · exact keepsBounds_authority s _

theorem keepsBounds_endDrafts (p : Port) (s : State) : KeepsBounds s (endDrafts p s) := keepsBounds_store s _

theorem keepsBounds_endClaims (p : Port) (s : State) : KeepsBounds s (endClaims p s) := by
  refine keepsBounds_foldl (fun s line => ?_) _ s
  split
  · exact keepsBounds_releaseOf line s
  · exact .refl s

theorem keepsBounds_flush (p : Port) (s : State) : KeepsBounds s (flush p s) := by
  have hemptied : KeepsBounds s (s.putInbox p { s.inboxes.get p with records := [] }) :=
    keepsBounds_putInbox fun _ => Nat.zero_le _
  rw [flush_eq]
  exact hemptied.trans (keepsBounds_store _ _)

theorem keepsBounds_endInbox (p : Port) (s : State) : KeepsBounds s (endInbox p s) :=
  (keepsBounds_flush p s).trans (keepsBounds_putInbox fun _ => Nat.zero_le _)

theorem keepsBounds_endReports (p : Port) (s : State) : KeepsBounds s (endReports p s) :=
  keepsBounds_putReports fun _ => reportsSound_ended _

theorem keepsBounds_endSession (p : Port) (s : State) : KeepsBounds s (endSession p s) := by
  have hdeparting : KeepsBounds s { s with departing := some p } := keepsBounds_of_eq rfl rfl rfl rfl rfl
  have hentries := hdeparting.trans (keepsBounds_foldl (keepsBounds_endEntry p) s.calendar.armed _)
  have hdrafts := (hentries.trans (keepsBounds_endAuthority p _)).trans (keepsBounds_endDrafts p _)
  have hinbox := (hdrafts.trans (keepsBounds_endClaims p _)).trans (keepsBounds_endInbox p _)
  exact (hinbox.trans (keepsBounds_endReports p _)).trans (keepsBounds_of_eq rfl rfl rfl rfl rfl)

end Sys2Proof.Machine

/-! Every command and event keeps the bounds of the queues and the promises of the output lines, and so does
every step (R92, R117, R131, R145, R148, R149). -/

namespace Sys2Proof.Machine

/-! ### Commands that touch no queue, no claim and no output: every branch of each -/

section

variable (p : Port) (ps : List Byte) (s : State)

theorem keepsBounds_setRate : KeepsBounds s (setRate p ps s).state := by
  unfold setRate
  split
  · exact keepsBounds_time s _
  · exact .refl s

theorem keepsBounds_stopSlew : KeepsBounds s (stopSlew p ps s).state := by
  unfold stopSlew
  split
  · exact .refl s
  · exact keepsBounds_time s _

theorem keepsBounds_claimAuthority : KeepsBounds s (claimAuthority p ps s).state := by
  unfold claimAuthority
  dsimp only
  split
  · exact .refl s
  · split
    · exact keepsBounds_authority s _
    · split
      · exact keepsBounds_authority s _
      · split
        · exact .refl s
        · exact keepsBounds_authority s _

theorem keepsBounds_withdrawClaim : KeepsBounds s (withdrawClaim p ps s).state := by
  unfold withdrawClaim
  split
  · exact .refl s
  · exact keepsBounds_authority s _

theorem keepsBounds_openDraft : KeepsBounds s (openDraft p ps s).state := by
  unfold openDraft
  split
  · exact .refl s
  · split
    · exact .refl s
    · exact keepsBounds_store s _

theorem keepsBounds_append : KeepsBounds s (append p ps s).state := by
  unfold append
  dsimp only
  split
  · exact .refl s
  · split
    · exact .refl s
    · split
      · exact .refl s
      · split
        · exact .refl s
        · split
          · exact .refl s
          · exact keepsBounds_store s _

theorem keepsBounds_abandonDraft : KeepsBounds s (abandonDraft p ps s).state := by
  unfold abandonDraft
  split
  · exact .refl s
  · split
    · exact .refl s
    · exact keepsBounds_store s _

theorem keepsBounds_queryEntry : KeepsBounds s (queryEntry p ps s).state := by
  unfold queryEntry
  split
  · exact .refl s
  · split <;> exact .refl s

theorem keepsBounds_fetchHead : KeepsBounds s (fetchHead p ps s).state := by
  unfold fetchHead
  split <;> exact .refl s

theorem keepsBounds_readPayload : KeepsBounds s (readPayload p ps s).state := by
  unfold readPayload
  dsimp only
  split
  · exact .refl s
  · split
    · exact .refl s
    · split
      · exact .refl s
      · split <;> exact .refl s

theorem keepsBounds_armAlign : KeepsBounds s (armAlign p ps s).state := by
  unfold armAlign
  dsimp only
  split
  · split
    · exact .refl s
    · exact keepsBounds_putArming s _
  · exact .refl s

theorem keepsBounds_disarmAlign : KeepsBounds s (disarmAlign p ps s).state := by
  unfold disarmAlign
  split
  · exact .refl s
  · exact keepsBounds_putArming s _

theorem keepsBounds_attach : KeepsBounds s (attach p ps s).state := by
  unfold attach
  dsimp only
  split
  · exact .refl s
  · exact keepsBounds_putPort s p _

end

/-! ### Commands of the Time Base, the Time Authority and the Message Store that report or release -/

theorem keepsBounds_loadTime (p : Port) (ps : List Byte) (s : State) : KeepsBounds s (loadTime p ps s).state := by
  unfold loadTime
  dsimp only
  split
  · exact .refl s
  · rw [okay_state]
    exact (keepsBounds_endSlew _ s).trans (keepsBounds_changeTime _ _ _ _ _)

theorem keepsBounds_stepTime (p : Port) (ps : List Byte) (s : State) : KeepsBounds s (stepTime p ps s).state := by
  unfold stepTime
  split
  · exact .refl s
  · split
    · exact .refl s
    · rw [okay_state]
      exact keepsBounds_changeTime _ _ _ _ s

theorem keepsBounds_startSlew (p : Port) (ps : List Byte) (s : State) : KeepsBounds s (startSlew p ps s).state := by
  unfold startSlew
  dsimp only
  split
  · exact .refl s
  · split
    · exact .refl s
    · exact (keepsBounds_endSlew _ s).trans (keepsBounds_time _ _)

theorem keepsBounds_asHolder {p : Port} {s : State} {body : Holder → Reply}
    (h : ∀ x, KeepsBounds s (body x).state) : KeepsBounds s (asHolder p s body).state := by
  unfold asHolder
  split
  · split
    · exact h _
    · exact .refl s
  · exact .refl s

theorem keepsBounds_setQuota (p : Port) (ps : List Byte) (s : State) : KeepsBounds s (setQuota p ps s).state := by
  unfold setQuota
  dsimp only
  split
  · exact .refl s
  · split
    · exact .refl s
    · split
      · exact .refl s
      · exact (keepsBounds_store s _).trans (keepsBounds_reportNow _ _ _)

/-! ### Commands of the Calendar -/

theorem keepsBounds_takeEntryReference (a : EntryAction) (s : State) :
    KeepsBounds s (takeEntryReference a s) := by
  cases a with
  | deliver ts h => exact keepsBounds_store s _
  | line o act => exact .refl s

theorem keepsBounds_schedule (p : Port) (ps : List Byte) (r : Point) (late : Bool) (s : State) :
    KeepsBounds s (schedule p ps r late s).state := by
  unfold schedule
  split
  · exact ((keepsBounds_calendar s _).trans (keepsBounds_takeEntryReference _ _)).trans
      (keepsBounds_releaseIfDue _ _ _ _)
  · exact .refl s

theorem keepsBounds_scheduleAt (p : Port) (ps : List Byte) (s : State) :
    KeepsBounds s (scheduleAt p ps s).state := by
  unfold scheduleAt
  dsimp only
  split
  · exact .refl s
  · split
    · exact .refl s
    · split
      · exact .refl s
      · split
        · exact .refl s
        · exact keepsBounds_schedule _ _ _ _ s

theorem keepsBounds_scheduleAfter (p : Port) (ps : List Byte) (s : State) :
    KeepsBounds s (scheduleAfter p ps s).state := by
  unfold scheduleAfter
  dsimp only
  split
  · exact .refl s
  · split
    · exact .refl s
    · split
      · exact .refl s
      · exact keepsBounds_schedule _ _ _ _ s

theorem keepsBounds_onArmed {p : Port} {h : Handle} {s : State} {body : Entry → Reply}
    (hbody : ∀ e, KeepsBounds s (body e).state) : KeepsBounds s (onArmed p h s body).state := by
  rcases onArmed_cases p h s body with hsame | ⟨e, -, hacts⟩
  · rw [hsame]
    exact .refl s
  · rw [hacts]
    exact hbody e

theorem keepsBounds_retime (p : Port) (ps : List Byte) (s : State) : KeepsBounds s (retime p ps s).state := by
  unfold retime
  dsimp only
  split
  · exact .refl s
  · split
    · exact .refl s
    · split
      · exact .refl s
      · refine keepsBounds_onArmed fun e => ?_
        split
        · exact .refl s
        · exact (keepsBounds_calendar s _).trans (keepsBounds_releaseIfDue _ _ _ _)

theorem keepsBounds_cancel (p : Port) (ps : List Byte) (s : State) : KeepsBounds s (cancel p ps s).state := by
  unfold cancel
  split
  · exact .refl s
  · exact keepsBounds_onArmed fun e => keepsBounds_finishEntry _ e _ s

/-! ### Commands of the Delivery Unit (R102 to R104) -/

theorem keepsBounds_removeHead (p : Port) (s : State) : KeepsBounds s (removeHead p s) := by
  unfold removeHead
  split
  · exact .refl s
  · rename_i d rest hhead
    have hremoved : KeepsBounds s (s.putInbox p { s.inboxes.get p with records := rest }) :=
      keepsBounds_putInbox fun h => by
        rw [hhead, List.length_cons] at h
        exact Nat.le_of_succ_le h
    exact hremoved.trans (keepsBounds_store _ _)

theorem keepsBounds_discardHead (p : Port) (ps : List Byte) (s : State) :
    KeepsBounds s (discardHead p ps s).state := by
  unfold discardHead
  split
  · exact .refl s
  · exact keepsBounds_removeHead p s

theorem keepsBounds_setInbox (p : Port) (ps : List Byte) (s : State) : KeepsBounds s (setInbox p ps s).state := by
  unfold setInbox
  dsimp only
  split
  · exact keepsBounds_putInbox id
  · exact .refl s

/-! ### Commands on lines (R111, R112, R119, R132, R138) -/

theorem keepsBounds_claim {p : Port} {line : Line} {s : State} {granted : Reply}
    (h : KeepsBounds s granted.state) : KeepsBounds s (claim p line s granted).state := by
  unfold claim
  split
  · exact h
  · split <;> exact .refl s

theorem keepsBounds_claimLine (p : Port) (ps : List Byte) (s : State) :
    KeepsBounds s (claimLine p ps s).state := by
  unfold claimLine
  dsimp only
  split
  · exact .refl s
  · split
    · exact .refl s
    · exact keepsBounds_claim (keepsBounds_putLine fun _ => EventLine.bounded_emptied rfl rfl)
  · split
    · exact .refl s
    · exact keepsBounds_claim (keepsBounds_putOutOwner _ (OutStage.sound_of_no_pulse p _))

theorem keepsBounds_releaseLine (p : Port) (ps : List Byte) (s : State) :
    KeepsBounds s (releaseLine p ps s).state := by
  unfold releaseLine
  split
  · exact .refl s
  · split
    · exact .refl s
    · exact keepsBounds_releaseOf _ s

theorem keepsBounds_takeCapture (p : Port) (ps : List Byte) (s : State) :
    KeepsBounds s (takeCapture p ps s).state := by
  unfold takeCapture
  split
  · exact .refl s
  · dsimp only
    split
    · exact .refl s
    · split
      · exact .refl s
      · rename_i hhead
        refine keepsBounds_putLine fun ⟨hcaptures, hdrops⟩ => ⟨?_, hdrops⟩
        rw [hhead, List.length_cons] at hcaptures
        exact Nat.le_of_succ_le hcaptures

theorem keepsBounds_driveLine (p : Port) (ps : List Byte) (s : State) :
    KeepsBounds s (driveLine p ps s).state := by
  unfold driveLine
  split
  · exact .refl s
  · split
    · exact .refl s
    · split
      · exact .refl s
      · split
        · exact .refl s
        · rename_i howner
          exact keepsBounds_applyAction _ (not_not.1 howner)

/-! ### Commands of the Report Queues (R148, R153) -/

theorem keepsBounds_takeReport (p : Port) (ps : List Byte) (s : State) :
    KeepsBounds s (takeReport p ps s).state := by
  unfold takeReport
  split
  · exact .refl s
  · rename_i hhead
    exact keepsBounds_putReports fun h => reportsSound_tail h hhead

/-- A parameter block of the defined length sets REPORTS_LOST ON or is refused (R148). -/
theorem keepsBounds_setReportMask (p : Port) {ps : List Byte} (s : State) (hlength : 13 ≤ ps.length) :
    KeepsBounds s (setReportMask p ps s).state := by
  by_cases hbad : (∃ k < 13, byteField ps k ≠ 0 ∧ byteField ps k ≠ 1) ∨ byteField ps 12 = 0
  · rw [setReportMask_refused hlength hbad]
    exact .refl s
  · rw [setReportMask_set hlength hbad]
    refine keepsBounds_putReports fun ⟨_, hrise, hroom⟩ => ⟨?_, hrise, hroom⟩
    obtain ⟨hsettings, hnot0⟩ := not_or.1 hbad
    exact (maskField_get ps _).2 (not_not.1 fun hnot1 => hsettings ⟨12, by decide, hnot0, hnot1⟩)

/-! ### Edges (R115 to R125) -/

theorem keepsBounds_stepEdge (a : Arming) (compensation : Nat) (t : Stamp) (stored : Bool) (s : State) :
    KeepsBounds s (stepEdge a compensation t stored s) := by
  have hended := keepsBounds_putArming s none
  unfold stepEdge
  dsimp only
  split
  · exact hended.trans (keepsBounds_reportNow _ _ _)
  · exact (hended.trans (keepsBounds_changeTime _ _ _ _ _)).trans (keepsBounds_reportNow _ _ _)

theorem keepsBounds_alignEdge (l : EvLine) (compensation : Nat) (t : Stamp) (pol : Polarity) (stored : Bool)
    (s : State) : KeepsBounds s (alignEdge l compensation t pol stored s) := by
  unfold alignEdge
  split
  · exact .refl s
  · split
    · split
      · exact keepsBounds_stepEdge _ _ _ _ s
      · exact keepsBounds_report _ _ _ s
    · exact .refl s

theorem keepsBounds_capture (l : EvLine) (owner : Port) (stamp : Stamp) (pol : Polarity) (s : State) :
    KeepsBounds s (capture l owner stamp pol s) := by
  have hrecorded : KeepsBounds s (s.putLine l ((s.events.lines.get l).record stamp pol)) :=
    keepsBounds_putLine fun h => EventLine.bounded_record h stamp pol
  unfold capture
  dsimp only
  split
  · exact hrecorded.trans (keepsBounds_report _ _ _ _)
  · exact hrecorded

theorem keepsBounds_recognizedEdge (l : EvLine) (level : Level) (s : State) :
    KeepsBounds s (recognizedEdge l level s) := by
  have hlevel : KeepsBounds s (s.putLine l { s.events.lines.get l with level := level }) :=
    keepsBounds_putLine id
  unfold recognizedEdge
  dsimp only
  split
  · exact hlevel
  · split
    · exact (hlevel.trans (keepsBounds_capture _ _ _ _ _)).trans (keepsBounds_alignEdge _ _ _ _ _ _)
    · exact hlevel

/-! ### Events -/

theorem keepsBounds_refclkAdvance {s t : State} (h : execRefclkAdvance s = .next t) : KeepsBounds s t := by
  unfold execRefclkAdvance at h
  split at h <;> cases h
  · exact .refl s
  · exact ((keepsBounds_settleTick s).trans (keepsBounds_takeDueEnds _)).trans (keepsBounds_advance _)

theorem keepsBounds_commandWrite {p : Port} {x : Transaction} {s t : State}
    (h : execCommandWrite p x s = .next t) : KeepsBounds s t := by
  unfold execCommandWrite at h
  split at h
  · split at h <;> cases h <;> exact keepsBounds_putPort s p _
  · cases h
    exact keepsBounds_putPort s p _

theorem keepsBounds_responseRead {p : Port} {x : Transaction} {s t : State}
    (h : execResponseRead p x s = .next t) : KeepsBounds s t := by
  unfold execResponseRead at h
  split at h
  · split at h <;> cases h <;> exact keepsBounds_putPort s p _
  · cases h
    exact keepsBounds_putPort s p _

theorem keepsBounds_unknownCommand {p : Port} {s t : State} (h : execUnknownCommand p s = .next t) :
    KeepsBounds s t := by
  unfold execUnknownCommand at h
  split at h
  · split at h <;> cases h
    · exact .refl s
    · exact (keepsBounds_settleTick s).trans (keepsBounds_putPort _ _ _)
  · cases h
    exact .refl s

theorem keepsBounds_edgeRecognized {l : EvLine} {level : Level} {held : Nat} {s t : State}
    (h : execEdgeRecognized l level held s = .next t) : KeepsBounds s t := by
  unfold execEdgeRecognized at h
  split at h <;> cases h
  · exact (keepsBounds_settleTick s).trans (keepsBounds_recognizedEdge _ _ _)
  · exact .refl s

theorem keepsBounds_portReset {p : Port} {s t : State} (h : execPortReset p s = .next t) : KeepsBounds s t := by
  have hreset : KeepsBounds s (assertPortReset p s.settleTick) :=
    (keepsBounds_settleTick s).trans (keepsBounds_putPort _ _ _)
  unfold execPortReset at h
  dsimp only at h
  split at h <;> cases h
  · exact hreset.trans (keepsBounds_endSession p _)
  · exact hreset

/-- The recognized levels are taken afresh; captures, counts and claims stand (R115). -/
theorem keepsBounds_resetNegation {pins : PerEv Level} {s t : State} (h : execResetNegation pins s = .next t) :
    KeepsBounds s t := by
  unfold execResetNegation at h
  split at h <;> cases h
  · exact ⟨fun _ => id, fun _ => id, fun l hl => by cases l <;> exact hl, fun _ => id⟩
  · exact .refl s

theorem keepsBounds_deviceReset (s : State) : KeepsBounds s (deviceReset s) := by
  obtain ⟨-, -, -, -, -, -, hqueues, houtputs, -⟩ := resetIsSound
  have hsame : KeepsBounds State.reset (deviceReset s) := keepsBounds_of_eq rfl rfl rfl rfl rfl
  exact keepsBounds_of_sound (hsame.queuesBounded hqueues) (hsame.outputsSound houtputs) s

/-! ### The step -/

/-- A command is refused, or carried out with a parameter block of its defined length (R162). -/
theorem gate_cases_length (row : CommandRow) (p : Port) (ps : List Byte) (f : State → Reply) (s : State) :
    (∃ r, gate row p ps f s = refuse s r) ∨ (gate row p ps f s = f s ∧ row.length ≤ ps.length) := by
  unfold gate
  split
  · exact .inl ⟨_, rfl⟩
  · split
    · exact .inl ⟨_, rfl⟩
    · split
      · exact .inl ⟨_, rfl⟩
      · rename_i hlength
        exact .inr ⟨rfl, Nat.not_lt.1 hlength⟩

theorem keepsBounds_execution_length {row : CommandRow} {body : Port → List Byte → State → Reply} {p : Port}
    {s t : State} (h : execution row body p s = .next t)
    (hbody : ∀ ps u, row.length ≤ ps.length → KeepsBounds u (body p ps u).state) : KeepsBounds s t := by
  rcases execution_cases h with ⟨c, d, o, -, -, rfl⟩ | ⟨-, rfl⟩
  · have hgate : KeepsBounds s.settleTick (gate row p c.params (body p c.params) s.settleTick).state := by
      rcases gate_cases_length row p c.params (body p c.params) s.settleTick with ⟨r, hr⟩ | ⟨hf, hlength⟩
      · rw [hr]
        exact .refl _
      · rw [hf]
        exact hbody _ _ hlength
    exact ((keepsBounds_settleTick s).trans hgate).trans (keepsBounds_putPort _ _ _)
  · exact .refl _

/-- The same for a rule that keeps the bounds whatever the length of its parameter block. -/
theorem keepsBounds_execution {row : CommandRow} {body : Port → List Byte → State → Reply} {p : Port}
    {s t : State} (h : execution row body p s = .next t)
    (hbody : ∀ ps u, KeepsBounds u (body p ps u).state) : KeepsBounds s t :=
  keepsBounds_execution_length h fun ps u _ => hbody ps u

theorem keepsBounds_exec {i : Instr} {s t : State} (h : exec i s = .next t) : KeepsBounds s t := by
  have settled := keepsBounds_settleTick s
  cases i with
  | commandWrite p x => exact keepsBounds_commandWrite h
  | responseRead p x => exact keepsBounds_responseRead h
  | unknownCommand p => exact keepsBounds_unknownCommand h
  | readTime p => exact keepsBounds_execution h fun _ u => .refl u
  | loadTime p => exact keepsBounds_execution h (keepsBounds_loadTime p)
  | stepTime p => exact keepsBounds_execution h (keepsBounds_stepTime p)
  | setRate p => exact keepsBounds_execution h (keepsBounds_setRate p)
  | startSlew p => exact keepsBounds_execution h (keepsBounds_startSlew p)
  | stopSlew p => exact keepsBounds_execution h (keepsBounds_stopSlew p)
  | refclkAdvance => exact keepsBounds_refclkAdvance h
  | elapsedTick => exact Host.Outcome.next.inj h ▸ settled
  | slewEnd => exact Host.Outcome.next.inj h ▸ settled.trans (keepsBounds_slewEnd _)
  | claimAuthority p => exact keepsBounds_execution h (keepsBounds_claimAuthority p)
  | renewAuthority p =>
    exact keepsBounds_execution h fun _ u => keepsBounds_asHolder fun _ => keepsBounds_authority u _
  | releaseAuthority p =>
    exact keepsBounds_execution h fun _ u => keepsBounds_asHolder fun x => keepsBounds_loseAuthority x _ u
  | withdrawClaim p => exact keepsBounds_execution h (keepsBounds_withdrawClaim p)
  | leaseExpiry => exact Host.Outcome.next.inj h ▸ settled.trans (keepsBounds_leaseExpiry _)
  | openDraft p => exact keepsBounds_execution h (keepsBounds_openDraft p)
  | append p => exact keepsBounds_execution h (keepsBounds_append p)
  | abandonDraft p => exact keepsBounds_execution h (keepsBounds_abandonDraft p)
  | setQuota p => exact keepsBounds_execution h (keepsBounds_setQuota p)
  | scheduleAt p => exact keepsBounds_execution h (keepsBounds_scheduleAt p)
  | scheduleAfter p => exact keepsBounds_execution h (keepsBounds_scheduleAfter p)
  | retime p => exact keepsBounds_execution h (keepsBounds_retime p)
  | cancel p => exact keepsBounds_execution h (keepsBounds_cancel p)
  | queryEntry p => exact keepsBounds_execution h (keepsBounds_queryEntry p)
  | holdReleases p => exact keepsBounds_execution h fun _ u => keepsBounds_calendar u _
  | resumeReleases p => exact keepsBounds_execution h fun _ u => keepsBounds_resume u
  | fetchHead p => exact keepsBounds_execution h (keepsBounds_fetchHead p)
  | readPayload p => exact keepsBounds_execution h (keepsBounds_readPayload p)
  | discardHead p => exact keepsBounds_execution h (keepsBounds_discardHead p)
  | flushInbox p => exact keepsBounds_execution h fun _ u => keepsBounds_flush p u
  | setInbox p => exact keepsBounds_execution h (keepsBounds_setInbox p)
  | claimLine p => exact keepsBounds_execution h (keepsBounds_claimLine p)
  | releaseLine p => exact keepsBounds_execution h (keepsBounds_releaseLine p)
  | queryLines p => exact keepsBounds_execution h fun _ u => .refl u
  | takeCapture p => exact keepsBounds_execution h (keepsBounds_takeCapture p)
  | armAlign p => exact keepsBounds_execution h (keepsBounds_armAlign p)
  | disarmAlign p => exact keepsBounds_execution h (keepsBounds_disarmAlign p)
  | edgeRecognized l level held => exact keepsBounds_edgeRecognized h
  | driveLine p => exact keepsBounds_execution h (keepsBounds_driveLine p)
  | pulseEnd o => exact Host.Outcome.next.inj h ▸ settled.trans (keepsBounds_pulseEnd o _)
  | takeReport p => exact keepsBounds_execution h (keepsBounds_takeReport p)
  | setReportMask p => exact keepsBounds_execution_length h fun _ u => keepsBounds_setReportMask p u
  | attach p => exact keepsBounds_execution h (keepsBounds_attach p)
  | detach p => exact keepsBounds_execution h fun _ u => keepsBounds_endSession p u
  | status p => exact keepsBounds_execution h fun _ u => .refl u
  | portReset p => exact keepsBounds_portReset h
  | deviceReset => exact Host.Outcome.next.inj h ▸ keepsBounds_deviceReset s
  | resetNegation pins => exact keepsBounds_resetNegation h
  | portResetNegation p => exact Host.Outcome.next.inj h ▸ keepsBounds_putPort s p _

/-- Settles O59: each operation keeps each queue and each output line by itself (`KeepsBounds`). What adds a
record has tested the room, or folds and counts in its place; and a line is driven only under an owner, whose
release leaves it idle. -/
theorem queuesAndOutputsStaySound : Obligations.QueuesAndOutputsStaySound := by
  intro s t h
  have hkept : KeepsBounds s t := by
    unfold step at h
    split at h
    · exact Host.Outcome.next.inj h ▸ .refl s
    · rename_i i rest _
      have hrest : KeepsBounds s { s with pending := rest } := keepsBounds_of_eq rfl rfl rfl rfl rfl
      exact hrest.trans (keepsBounds_exec h)
  exact ⟨hkept.queuesBounded, hkept.outputsSound⟩

end Sys2Proof.Machine

/-! Ports under every operation of the part (R156, R160, R168, R169): pins, slots, sessions and session numbers
stand, and nothing is stored for a port whose session is ending. What each command's own rule does to a
port, and that a refusal does nothing, follow in one lemma for each command. -/

namespace Sys2Proof.Machine

/-! ### What leaves the ports alone -/

/-- The ports and nRESET stand as they were. -/
structure SamePorts (s t : State) : Prop where
  ports : t.ports = s.ports
  resetAsserted : t.resetAsserted = s.resetAsserted

/-- The ports stand as they were, and the report queue of a port whose session is ending (R156). -/
structure LeavesPorts (s t : State) : Prop extends SamePorts s t where
  departing : t.departing = s.departing
  queue : ∀ p, s.departing = some p → t.reports.get p = s.reports.get p

theorem LeavesPorts.refl (s : State) : LeavesPorts s s := ⟨⟨rfl, rfl⟩, rfl, fun _ _ => rfl⟩

theorem SamePorts.trans {a b c : State} (h : SamePorts a b) (k : SamePorts b c) : SamePorts a c :=
  ⟨k.ports.trans h.ports, k.resetAsserted.trans h.resetAsserted⟩

theorem LeavesPorts.trans {a b c : State} (h : LeavesPorts a b) (k : LeavesPorts b c) : LeavesPorts a c :=
  ⟨h.toSamePorts.trans k.toSamePorts, k.departing.trans h.departing,
    fun p hp => (k.queue p (h.departing.trans hp)).trans (h.queue p hp)⟩

theorem leavesPorts_of_eq {s t : State} (hp : t.ports = s.ports) (hi : t.resetAsserted = s.resetAsserted)
    (hd : t.departing = s.departing) (hr : t.reports = s.reports) : LeavesPorts s t :=
  ⟨⟨hp, hi⟩, hd, fun _ _ => by rw [hr]⟩

theorem leavesPorts_foldl {α : Type} {f : State → α → State} (h : ∀ s x, LeavesPorts s (f s x)) (l : List α)
    (s : State) : LeavesPorts s (l.foldl f s) := by
  induction l generalizing s with
  | nil => exact .refl s
  | cons x l ih => exact (h s x).trans (ih (f s x))

theorem leavesPorts_report (p : Port) (cause : Stamp) (b : ReportBody) (s : State) :
    LeavesPorts s (report p cause b s) := by
  refine ⟨⟨report_ports .., report_resetAsserted ..⟩, report_departing .., fun q hq => ?_⟩
  rw [report_get, if_neg]
  rintro ⟨rfl, -, hother⟩
  exact hother hq

theorem leavesPorts_reportNow (p : Port) (b : ReportBody) (s : State) : LeavesPorts s (reportNow p b s) :=
  leavesPorts_report ..

theorem leavesPorts_reportHolder (b : ReportBody) (s : State) : LeavesPorts s (reportHolder b s) := by
  unfold reportHolder
  split
  · exact leavesPorts_reportNow _ _ s
  · exact .refl s

theorem leavesPorts_time (s : State) (t : TimeBase) : LeavesPorts s { s with time := t } :=
  leavesPorts_of_eq rfl rfl rfl rfl

theorem leavesPorts_settleTick (s : State) : LeavesPorts s s.settleTick := leavesPorts_time s _

theorem leavesPorts_authority (s : State) (a : Authority) : LeavesPorts s { s with authority := a } :=
  leavesPorts_of_eq rfl rfl rfl rfl

theorem leavesPorts_store (s : State) (st : Store) : LeavesPorts s { s with store := st } :=
  leavesPorts_of_eq rfl rfl rfl rfl

theorem leavesPorts_putArming (s : State) (x : Option Arming) : LeavesPorts s (s.putArming x) :=
  leavesPorts_of_eq rfl rfl rfl rfl

theorem leavesPorts_finishEntry (i : RecordNo) (e : Entry) (cause : FinishCause) (s : State) :
    LeavesPorts s (finishEntry i e cause s) := by
  rw [finishEntry_eq]
  exact leavesPorts_of_eq rfl rfl rfl rfl

/-! ### Releases (R73 to R76, R95) -/

theorem leavesPorts_handOn (o : Occurrence) (a : EntryAction) (s : State) : LeavesPorts s (handOn o a s).1 := by
  cases a with
  | deliver ts h =>
    have hplaced := sameQueues_placeAll o ts h s
    have hleaves : LeavesPorts s (placeAll o ts h s).state :=
      leavesPorts_of_eq hplaced.ports (by simp) hplaced.departing hplaced.reports
    rw [handOn_deliver]
    dsimp only
    split
    · exact hleaves
    · exact hleaves.trans (leavesPorts_report _ _ _ _)
  | line out act =>
    by_cases h : s.events.outOwner.get out = some o.owner
    · rw [handOn_line_driven act h]
      exact leavesPorts_of_eq rfl rfl rfl rfl
    · rw [handOn_line_refused act h]
      exact leavesPorts_reportNow _ _ s

theorem leavesPorts_reportRelease (e : Entry) (o : Occurrence) (x : ReleaseOutcome) (s : State) :
    LeavesPorts s (reportRelease e o x s) := by
  unfold reportRelease
  split
  · exact leavesPorts_reportNow _ _ s
  · exact .refl s

theorem leavesPorts_settleFate (i : RecordNo) (h : Handle) (e : Entry) (fate : Fate) (s : State) :
    LeavesPorts s (settleFate i h e fate s) := by
  cases fate with
  | rearm next => exact leavesPorts_of_eq rfl rfl rfl rfl
  | finish cause => exact (leavesPorts_finishEntry i e cause s).trans (leavesPorts_reportNow _ _ _)

theorem leavesPorts_releaseEntry (late : Bool) (s : State) (i : RecordNo) :
    LeavesPorts s (releaseEntry late s i) := by
  unfold releaseEntry
  split
  · exact ((leavesPorts_handOn _ _ s).trans (leavesPorts_reportRelease _ _ _ _)).trans
      (leavesPorts_settleFate _ _ _ _ _)
  · exact .refl s

theorem leavesPorts_releaseDue (late : Bool) (s : State) : LeavesPorts s (releaseDue late s) :=
  leavesPorts_foldl (leavesPorts_releaseEntry late) _ s

theorem leavesPorts_releaseIfRunning (late : Bool) (s : State) : LeavesPorts s (releaseIfRunning late s) := by
  unfold releaseIfRunning
  split
  · exact leavesPorts_releaseDue late s
  · exact .refl s

theorem leavesPorts_releaseIfDue (late : Bool) (i : RecordNo) (r : Point) (s : State) :
    LeavesPorts s (releaseIfDue late i r s) := by
  unfold releaseIfDue
  split
  · exact leavesPorts_releaseEntry late s i
  · exact .refl s

theorem leavesPorts_resume (s : State) : LeavesPorts s (resume s) := by
  by_cases h : s.running
  · rw [resume_running h]
    exact .refl s
  · rw [resume_held h]
    have hrunning : LeavesPorts s { s with calendar := { s.calendar with releaseState := .running } } :=
      leavesPorts_of_eq rfl rfl rfl rfl
    exact hrunning.trans (leavesPorts_releaseDue true _)

/-! ### Time changes, slews and the clock (R4, R10, R18) -/

theorem leavesPorts_changeTime (new : Point) (frac : Nat) (ts : TimeState) (cause : ChangeCause) (s : State) :
    LeavesPorts s (changeTime new frac ts cause s) :=
  ((leavesPorts_time s _).trans (leavesPorts_foldl (fun s p => leavesPorts_report p _ _ s) Port.all _)).trans
    (leavesPorts_releaseIfRunning true _)

theorem leavesPorts_endSlew (cause : SlewCause) (s : State) : LeavesPorts s (endSlew cause s) := by
  unfold endSlew
  split
  · exact .refl s
  · exact (leavesPorts_time s _).trans (leavesPorts_reportHolder _ _)

theorem leavesPorts_slewEnd (s : State) : LeavesPorts s (slewEnd s) := by
  unfold slewEnd
  split
  · split
    · exact leavesPorts_endSlew _ s
    · exact .refl s
  · exact .refl s

theorem leavesPorts_pulseEnd (o : OutLine) (s : State) : LeavesPorts s (pulseEnd o s) := by
  rw [pulseEnd_eq]
  exact leavesPorts_of_eq rfl rfl rfl rfl

theorem leavesPorts_takeEnds (l : List Nat) (s : State) :
    LeavesPorts s (l.foldl (fun s k => takeEnd k s) s) := by
  refine leavesPorts_foldl (fun s k => ?_) l s
  unfold takeEnd
  split
  · exact leavesPorts_slewEnd s
  · exact leavesPorts_pulseEnd _ s
  · exact leavesPorts_pulseEnd _ s
  · exact leavesPorts_pulseEnd _ s
  · exact leavesPorts_pulseEnd _ s
  · exact .refl s

theorem leavesPorts_advance (s : State) : LeavesPorts s (advance s) := by
  unfold advance
  dsimp only
  split
  · exact (leavesPorts_time s _).trans (leavesPorts_changeTime _ _ _ _ _)
  · exact (leavesPorts_time s _).trans (leavesPorts_releaseIfRunning false _)

/-! ### The loss of the authority (R33, R34) -/

theorem leavesPorts_cancelArming (cause : CancelCause) (s : State) : LeavesPorts s (cancelArming cause s) := by
  unfold cancelArming
  split
  · exact .refl s
  · exact (leavesPorts_putArming s none).trans (leavesPorts_reportNow _ _ _)

theorem leavesPorts_handover (former : Port) (cause : LossCause) (s : State) :
    LeavesPorts s (handover former cause s) := by
  cases hw : s.authority.waiters with
  | nil =>
    rw [handover_vacant former cause hw]
    exact .refl s
  | cons w rest =>
    rw [handover_granted former cause hw]
    exact (leavesPorts_authority s _).trans (leavesPorts_report _ _ _ _)

theorem leavesPorts_reportLoss (h : Holder) (cause : LossCause) (s : State) :
    LeavesPorts s (reportLoss h cause s) := by
  unfold reportLoss
  split
  · exact leavesPorts_reportNow _ _ s
  · exact .refl s

theorem leavesPorts_loseAuthority (h : Holder) (cause : LossCause) (s : State) :
    LeavesPorts s (loseAuthority h cause s) :=
  ((((leavesPorts_authority s _).trans (leavesPorts_reportLoss h cause _)).trans
    (leavesPorts_cancelArming .authorityLost _)).trans (leavesPorts_resume _)).trans
    (leavesPorts_handover h.port cause _)

theorem leavesPorts_leaseExpiry (s : State) : LeavesPorts s (leaseExpiry s) := by
  unfold leaseExpiry
  split
  · split
    · exact leavesPorts_loseAuthority _ _ s
    · exact .refl s
  · exact .refl s

theorem leavesPorts_takeDueEnds (s : State) : LeavesPorts s (takeDueEnds s) := by
  have hdrawn : LeavesPorts s { s with draws := s.draws + 1 } := leavesPorts_of_eq rfl rfl rfl rfl
  unfold takeDueEnds
  split
  · exact ((hdrawn.trans (leavesPorts_takeEnds _ _)).trans (leavesPorts_leaseExpiry _)).trans
      (leavesPorts_takeEnds _ _)
  · exact leavesPorts_takeEnds _ s

/-! ### Edges (R115 to R125) -/

theorem leavesPorts_capture (l : EvLine) (owner : Port) (stamp : Stamp) (pol : Polarity) (s : State) :
    LeavesPorts s (capture l owner stamp pol s) := by
  have hrecord : LeavesPorts s (s.putLine l ((s.events.lines.get l).record stamp pol)) :=
    leavesPorts_of_eq rfl rfl rfl rfl
  unfold capture
  dsimp only
  split
  · exact hrecord.trans (leavesPorts_report _ _ _ _)
  · exact hrecord

theorem leavesPorts_stepEdge (a : Arming) (compensation : Nat) (t : Stamp) (stored : Bool) (s : State) :
    LeavesPorts s (stepEdge a compensation t stored s) := by
  unfold stepEdge
  dsimp only
  split
  · exact (leavesPorts_putArming s none).trans (leavesPorts_reportNow _ _ _)
  · exact ((leavesPorts_putArming s none).trans (leavesPorts_changeTime _ _ _ _ _)).trans
      (leavesPorts_reportNow _ _ _)

theorem leavesPorts_alignEdge (l : EvLine) (compensation : Nat) (t : Stamp) (pol : Polarity) (stored : Bool)
    (s : State) : LeavesPorts s (alignEdge l compensation t pol stored s) := by
  unfold alignEdge
  split
  · exact .refl s
  · split
    · split
      · exact leavesPorts_stepEdge _ _ _ _ s
      · exact leavesPorts_report _ _ _ s
    · exact .refl s

theorem leavesPorts_recognizedEdge (l : EvLine) (level : Level) (s : State) :
    LeavesPorts s (recognizedEdge l level s) := by
  have hlevel : LeavesPorts s (s.putLine l { s.events.lines.get l with level := level }) :=
    leavesPorts_of_eq rfl rfl rfl rfl
  unfold recognizedEdge
  dsimp only
  split
  · exact hlevel
  · split
    · exact (hlevel.trans (leavesPorts_capture _ _ _ _ _)).trans (leavesPorts_alignEdge _ _ _ _ _ _)
    · exact hlevel

/-! ### The end of a session (R169, Table 9-2) -/

theorem leavesPorts_endEntries (p : Port) (s : State) : LeavesPorts s (endEntries p s) := by
  refine leavesPorts_foldl (fun s i => ?_) _ s
  unfold endEntry
  split
  · split
    · exact leavesPorts_finishEntry _ _ _ s
    · exact .refl s
  · exact .refl s

theorem leavesPorts_endAuthority (p : Port) (s : State) : LeavesPorts s (endAuthority p s) := by
  unfold endAuthority
  split
  · split
    · exact leavesPorts_loseAuthority _ _ s
    · exact leavesPorts_authority s _
  · exact leavesPorts_authority s _

theorem leavesPorts_endDrafts (p : Port) (s : State) : LeavesPorts s (endDrafts p s) :=
  leavesPorts_store s _

theorem leavesPorts_releaseOf (line : Line) (s : State) : LeavesPorts s (releaseOf line s) := by
  cases line with
  | event l =>
    have hcancelled : LeavesPorts s (cancelArmingOn l s) := by
      unfold cancelArmingOn
      split
      · split
        · exact leavesPorts_cancelArming _ s
        · exact .refl s
      · exact .refl s
    exact hcancelled.trans (leavesPorts_of_eq rfl rfl rfl rfl)
  | output o => exact leavesPorts_of_eq rfl rfl rfl rfl

theorem leavesPorts_endClaims (p : Port) (s : State) : LeavesPorts s (endClaims p s) := by
  refine leavesPorts_foldl (fun s line => ?_) _ s
  split
  · exact leavesPorts_releaseOf line s
  · exact .refl s

theorem leavesPorts_flush (p : Port) (s : State) : LeavesPorts s (flush p s) := by
  rw [flush_eq]
  exact leavesPorts_of_eq rfl rfl rfl rfl

theorem leavesPorts_endInbox (p : Port) (s : State) : LeavesPorts s (endInbox p s) :=
  (leavesPorts_flush p s).trans (leavesPorts_of_eq rfl rfl rfl rfl)

end Sys2Proof.Machine

/-! What each command's own rule does to ports, and that a refusal does nothing (R160, R162). -/

namespace Sys2Proof.Machine

open Claims

/-! ### The reply of a rule -/

/-- Pins and slots stand, and every session but that of `p`. -/
structure PortsButSession (p : Port) (s t : State) : Prop where
  resetAsserted : t.resetAsserted = s.resetAsserted
  pin : ∀ q, (t.ports.get q).resetAsserted = (s.ports.get q).resetAsserted
  slot : ∀ q, (t.ports.get q).slot = (s.ports.get q).slot
  session : ∀ q, q ≠ p → (t.ports.get q).session = (s.ports.get q).session

theorem SamePorts.portsButSession {p : Port} {s t : State} (h : SamePorts s t) : PortsButSession p s t := by
  constructor
  case resetAsserted => exact h.resetAsserted
  all_goals intros; rw [h.ports]

theorem PortsButSession.trans {p : Port} {a b c : State} (h : PortsButSession p a b)
    (k : PortsButSession p b c) : PortsButSession p a c where
  resetAsserted := k.resetAsserted.trans h.resetAsserted
  pin q := (k.pin q).trans (h.pin q)
  slot q := (k.slot q).trans (h.slot q)
  session q hq := (k.session q hq).trans (h.session q hq)

/-- The reply of a rule to a command at `p`: it touches no port's slot or pin and no other session, and it
refuses without effect (R162). -/
structure Answers (p : Port) (s : State) (r : Reply) : Prop where
  ports : PortsButSession p s r.state
  refused : 0x10 ≤ r.answer.result.code.toNat → r.state = s

section

variable {p : Port} {s : State}

theorem Answers.unchanged {r : Reply} (h : r.state = s) : Answers p s r :=
  ⟨SamePorts.portsButSession ⟨by rw [h], by rw [h]⟩, fun _ => h⟩

theorem Answers.refuse (x : Result) : Answers p s (refuse s x) := .unchanged rfl

theorem Answers.carriedOut {t : State} {x : Result} {payload : List Byte} (h : PortsButSession p s t)
    (hx : x.code.toNat < 0x10) : Answers p s ⟨t, x, payload⟩ :=
  ⟨h, fun hrefused => absurd hx (Nat.not_lt.2 hrefused)⟩

theorem Answers.okay {t : State} {payload : List Byte} (h : SamePorts s t) : Answers p s (okay t payload) :=
  .carriedOut h.portsButSession (by decide)

end

section

variable (p : Port) (ps : List Byte) (s : State)

/-! ### Commands of the Time Base -/

theorem readTime_answers : Answers p s (readTime p ps s) := .unchanged rfl

theorem loadTime_answers : Answers p s (loadTime p ps s) := by
  unfold loadTime
  dsimp only
  split
  · exact .refuse _
  · exact .okay ((leavesPorts_endSlew _ s).trans (leavesPorts_changeTime _ _ _ _ _)).toSamePorts

theorem stepTime_answers : Answers p s (stepTime p ps s) := by
  unfold stepTime
  split
  · exact .refuse _
  · split
    · exact .refuse _
    · exact .okay (leavesPorts_changeTime _ _ _ _ s).toSamePorts

theorem setRate_answers : Answers p s (setRate p ps s) := by
  unfold setRate
  split
  · exact .okay ⟨rfl, rfl⟩
  · exact .refuse _

theorem startSlew_answers : Answers p s (startSlew p ps s) := by
  unfold startSlew
  dsimp only
  split
  · exact .refuse _
  · split
    · exact .refuse _
    · exact .okay ((leavesPorts_endSlew _ s).trans (leavesPorts_time _ _)).toSamePorts

theorem stopSlew_answers : Answers p s (stopSlew p ps s) := by
  unfold stopSlew
  split <;> exact .okay ⟨rfl, rfl⟩

/-! ### Commands of the Time Authority -/

theorem claimAuthority_answers : Answers p s (claimAuthority p ps s) := by
  unfold claimAuthority
  dsimp only
  split
  · exact .refuse _
  · split
    · exact .okay ⟨rfl, rfl⟩
    · split
      · exact .carriedOut (leavesPorts_authority s _).toSamePorts.portsButSession (by decide)
      · split
        · exact .unchanged rfl
        · exact .carriedOut (leavesPorts_authority s _).toSamePorts.portsButSession (by decide)

variable {p s} in
theorem asHolder_answers {body : Holder → Reply} (h : ∀ x, Answers p s (body x)) :
    Answers p s (asHolder p s body) := by
  unfold asHolder
  split
  · split
    · exact h _
    · exact .refuse _
  · exact .refuse _

theorem renewAuthority_answers : Answers p s (renewAuthority p ps s) :=
  asHolder_answers fun _ => .okay ⟨rfl, rfl⟩

theorem releaseAuthority_answers : Answers p s (releaseAuthority p ps s) :=
  asHolder_answers fun _ => .okay (leavesPorts_loseAuthority _ _ s).toSamePorts

theorem withdrawClaim_answers : Answers p s (withdrawClaim p ps s) := by
  unfold withdrawClaim
  split
  · exact .refuse _
  · exact .okay ⟨rfl, rfl⟩

/-! ### Commands of the Message Store -/

theorem openDraft_answers : Answers p s (openDraft p ps s) := by
  unfold openDraft
  split
  · exact .refuse _
  · split
    · exact .refuse _
    · exact .okay ⟨rfl, rfl⟩

theorem append_answers : Answers p s (append p ps s) := by
  unfold append
  dsimp only
  split
  · exact .refuse _
  · split
    · exact .refuse _
    · split
      · exact .refuse _
      · split
        · exact .refuse _
        · split
          · exact .refuse _
          · exact .okay ⟨rfl, rfl⟩

theorem abandonDraft_answers : Answers p s (abandonDraft p ps s) := by
  unfold abandonDraft
  split
  · exact .refuse _
  · split
    · exact .refuse _
    · exact .okay ⟨rfl, rfl⟩

theorem setQuota_answers : Answers p s (setQuota p ps s) := by
  unfold setQuota
  dsimp only
  split
  · exact .refuse _
  · split
    · exact .refuse _
    · split
      · exact .refuse _
      · exact .okay ((leavesPorts_store s _).trans (leavesPorts_reportNow _ _ _)).toSamePorts

/-! ### Commands of the Calendar -/

theorem schedule_answers (r : Point) (late : Bool) : Answers p s (schedule p ps r late s) := by
  unfold schedule
  split
  · rename_i i rest a _ _
    have htaken : SamePorts s (takeEntryReference a
        { s with calendar := s.calendar.take i rest (scheduledEntry p ps a) r }) := by
      unfold takeEntryReference
      split <;> exact ⟨rfl, rfl⟩
    exact .okay (htaken.trans (leavesPorts_releaseIfDue _ _ _ _).toSamePorts)
  · exact .refuse _

theorem scheduleAt_answers : Answers p s (scheduleAt p ps s) := by
  unfold scheduleAt
  dsimp only
  split
  · exact .refuse _
  · split
    · exact .refuse _
    · split
      · exact .refuse _
      · split
        · exact .refuse _
        · exact schedule_answers p ps s _ _

theorem scheduleAfter_answers : Answers p s (scheduleAfter p ps s) := by
  unfold scheduleAfter
  dsimp only
  split
  · exact .refuse _
  · split
    · exact .refuse _
    · split
      · exact .refuse _
      · exact schedule_answers p ps s _ _

variable {p s} in
theorem onArmed_answers {h : Handle} {body : Entry → Reply} (hbody : ∀ e, Answers p s (body e)) :
    Answers p s (onArmed p h s body) := by
  rcases onArmed_cases p h s body with hsame | ⟨e, -, hacts⟩
  · exact .unchanged hsame
  · rw [hacts]
    exact hbody e

theorem retime_answers : Answers p s (retime p ps s) := by
  unfold retime
  dsimp only
  split
  · exact .refuse _
  · split
    · exact .refuse _
    · split
      · exact .refuse _
      · refine onArmed_answers fun e => ?_
        have hmoved (c : Calendar) : SamePorts s { s with calendar := c } := ⟨rfl, rfl⟩
        split
        · exact .refuse _
        · exact .okay ((hmoved _).trans (leavesPorts_releaseIfDue _ _ _ _).toSamePorts)

theorem cancel_answers : Answers p s (cancel p ps s) := by
  unfold cancel
  split
  · exact .refuse _
  · exact onArmed_answers fun e => .okay (leavesPorts_finishEntry _ e _ s).toSamePorts

theorem queryEntry_answers : Answers p s (queryEntry p ps s) := by
  unfold queryEntry
  split
  · exact .refuse _
  · split
    · exact .refuse _
    · exact .unchanged rfl

theorem holdReleases_answers : Answers p s (holdReleases p ps s) := .okay ⟨rfl, rfl⟩

theorem resumeReleases_answers : Answers p s (resumeReleases p ps s) := .okay (leavesPorts_resume s).toSamePorts

/-! ### Commands of the Delivery Unit -/

theorem fetchHead_answers : Answers p s (fetchHead p ps s) := by
  unfold fetchHead
  split
  · exact .refuse _
  · exact .unchanged rfl

theorem readPayload_answers : Answers p s (readPayload p ps s) := by
  unfold readPayload
  dsimp only
  split
  · exact .refuse _
  · split
    · exact .refuse _
    · split
      · exact .refuse _
      · split
        · exact .refuse _
        · exact .unchanged rfl

theorem discardHead_answers : Answers p s (discardHead p ps s) := by
  unfold discardHead
  split
  · exact .refuse _
  · rename_i hrecords
    rw [removeHead_eq hrecords]
    exact .okay ⟨rfl, rfl⟩

theorem flushInbox_answers : Answers p s (flushInbox p ps s) := .okay (leavesPorts_flush p s).toSamePorts

theorem setInbox_answers : Answers p s (setInbox p ps s) := by
  unfold setInbox
  dsimp only
  split
  · exact .okay ⟨rfl, rfl⟩
  · exact .refuse _

/-! ### Commands on lines -/

variable {p s} in
theorem claim_answers {line : Line} {granted : Reply} (h : Answers p s granted) :
    Answers p s (claim p line s granted) := by
  unfold claim
  split
  · exact h
  · split <;> exact .unchanged rfl

theorem claimLine_answers : Answers p s (claimLine p ps s) := by
  unfold claimLine
  dsimp only
  split
  · exact .refuse _
  · split
    · exact .refuse _
    · exact claim_answers (.okay ⟨rfl, rfl⟩)
  · split
    · exact .refuse _
    · exact claim_answers (.okay ⟨rfl, rfl⟩)

theorem releaseLine_answers : Answers p s (releaseLine p ps s) := by
  unfold releaseLine
  split
  · exact .refuse _
  · split
    · exact .refuse _
    · exact .okay (leavesPorts_releaseOf _ s).toSamePorts

theorem queryLines_answers : Answers p s (queryLines p ps s) := .unchanged rfl

theorem takeCapture_answers : Answers p s (takeCapture p ps s) := by
  unfold takeCapture
  dsimp only
  split
  · exact .refuse _
  · split
    · exact .refuse _
    · split
      · exact .refuse _
      · exact .okay ⟨rfl, rfl⟩

theorem armAlign_answers : Answers p s (armAlign p ps s) := by
  unfold armAlign
  dsimp only
  split
  · split
    · exact .refuse _
    · exact .okay ⟨rfl, rfl⟩
  · exact .refuse _

theorem disarmAlign_answers : Answers p s (disarmAlign p ps s) := by
  unfold disarmAlign
  split
  · exact .refuse _
  · exact .okay ⟨rfl, rfl⟩

theorem driveLine_answers : Answers p s (driveLine p ps s) := by
  unfold driveLine
  dsimp only
  split
  · exact .refuse _
  · split
    · exact .refuse _
    · split
      · exact .refuse _
      · split
        · exact .refuse _
        · exact .okay ⟨rfl, rfl⟩

/-! ### Commands of the Report Queues and the Host Ports -/

theorem takeReport_answers : Answers p s (takeReport p ps s) := by
  unfold takeReport
  split
  · exact .refuse _
  · exact .okay ⟨rfl, rfl⟩

theorem setReportMask_answers : Answers p s (setReportMask p ps s) := by
  unfold setReportMask
  dsimp only
  split
  · exact .refuse _
  · exact .okay ⟨rfl, rfl⟩

/-- A port whose session alone is set: every other port stands, and its own pin and slot. -/
theorem portsButSession_putPort {x : HostPort} (hpin : x.resetAsserted = (s.ports.get p).resetAsserted)
    (hslot : x.slot = (s.ports.get p).slot) : PortsButSession p s (s.putPort p x) := by
  refine ⟨rfl, fun q => ?_, fun q => ?_, fun q hq => ?_⟩
  · rw [State.putPort_ports, PerPort.get_put_eq]
    split
    · rename_i hq
      rw [hq, hpin]
    · rfl
  · rw [State.putPort_ports, PerPort.get_put_eq]
    split
    · rename_i hq
      rw [hq, hslot]
    · rfl
  · rw [State.putPort_ports, PerPort.get_put_of_ne _ _ hq]

theorem attach_answers : Answers p s (attach p ps s) := by
  unfold attach
  dsimp only
  split
  · exact .unchanged rfl
  · exact .carriedOut (portsButSession_putPort p s rfl rfl) (by decide)

/-- The end of a session leaves every port but for the session that ends. -/
theorem portsButSession_endSession : PortsButSession p s (endSession p s) := by
  have hdeparting : SamePorts s { s with departing := some p } := ⟨rfl, rfl⟩
  have hreported (u : State) : SamePorts u (endReports p u) := ⟨rfl, rfl⟩
  have hleaves := hdeparting.trans
    (((((leavesPorts_endEntries p _).trans (leavesPorts_endAuthority p _)).trans
      (leavesPorts_endDrafts p _)).trans (leavesPorts_endClaims p _)).trans
      (leavesPorts_endInbox p _)).toSamePorts
  have h7 := hleaves.trans (hreported _)
  have hdetached (u : State) : PortsButSession p u (endPort p u) := by
    have hput := portsButSession_putPort p u (x := { u.ports.get p with session := .detached }) rfl rfl
    exact ⟨hput.resetAsserted, hput.pin, hput.slot, hput.session⟩
  exact h7.portsButSession.trans (hdetached _)

theorem detach_answers : Answers p s (detach p ps s) :=
  .carriedOut (portsButSession_endSession p s) (by decide)

theorem status_answers : Answers p s (status p ps s) := .unchanged rfl

end

/-! ### All 38 commands -/

/-- Each row of Table 10-6 is the execution event of one rule, and each rule answers like this. -/
theorem exec_of_rowOf_answers {i : Instr} {p : Port} {row : CommandRow} (h : rowOf i = some (p, row)) :
    ∃ body : Port → List Byte → State → Reply, (∀ s, exec i s = execution row body p s) ∧
      ∀ ps s, Answers p s (body p ps s) := by
  cases i <;> simp only [rowOf, Option.some.injEq, Prod.mk.injEq, reduceCtorEq] at h <;>
    obtain ⟨rfl, rfl⟩ := h
  case readTime => exact ⟨_, fun _ => rfl, readTime_answers _⟩
  case loadTime => exact ⟨_, fun _ => rfl, loadTime_answers _⟩
  case stepTime => exact ⟨_, fun _ => rfl, stepTime_answers _⟩
  case setRate => exact ⟨_, fun _ => rfl, setRate_answers _⟩
  case startSlew => exact ⟨_, fun _ => rfl, startSlew_answers _⟩
  case stopSlew => exact ⟨_, fun _ => rfl, stopSlew_answers _⟩
  case claimAuthority => exact ⟨_, fun _ => rfl, claimAuthority_answers _⟩
  case renewAuthority => exact ⟨_, fun _ => rfl, renewAuthority_answers _⟩
  case releaseAuthority => exact ⟨_, fun _ => rfl, releaseAuthority_answers _⟩
  case withdrawClaim => exact ⟨_, fun _ => rfl, withdrawClaim_answers _⟩
  case openDraft => exact ⟨_, fun _ => rfl, openDraft_answers _⟩
  case append => exact ⟨_, fun _ => rfl, append_answers _⟩
  case abandonDraft => exact ⟨_, fun _ => rfl, abandonDraft_answers _⟩
  case setQuota => exact ⟨_, fun _ => rfl, setQuota_answers _⟩
  case scheduleAt => exact ⟨_, fun _ => rfl, scheduleAt_answers _⟩
  case scheduleAfter => exact ⟨_, fun _ => rfl, scheduleAfter_answers _⟩
  case retime => exact ⟨_, fun _ => rfl, retime_answers _⟩
  case cancel => exact ⟨_, fun _ => rfl, cancel_answers _⟩
  case queryEntry => exact ⟨_, fun _ => rfl, queryEntry_answers _⟩
  case holdReleases => exact ⟨_, fun _ => rfl, holdReleases_answers _⟩
  case resumeReleases => exact ⟨_, fun _ => rfl, resumeReleases_answers _⟩
  case fetchHead => exact ⟨_, fun _ => rfl, fetchHead_answers _⟩
  case readPayload => exact ⟨_, fun _ => rfl, readPayload_answers _⟩
  case discardHead => exact ⟨_, fun _ => rfl, discardHead_answers _⟩
  case flushInbox => exact ⟨_, fun _ => rfl, flushInbox_answers _⟩
  case setInbox => exact ⟨_, fun _ => rfl, setInbox_answers _⟩
  case claimLine => exact ⟨_, fun _ => rfl, claimLine_answers _⟩
  case releaseLine => exact ⟨_, fun _ => rfl, releaseLine_answers _⟩
  case queryLines => exact ⟨_, fun _ => rfl, queryLines_answers _⟩
  case takeCapture => exact ⟨_, fun _ => rfl, takeCapture_answers _⟩
  case armAlign => exact ⟨_, fun _ => rfl, armAlign_answers _⟩
  case disarmAlign => exact ⟨_, fun _ => rfl, disarmAlign_answers _⟩
  case driveLine => exact ⟨_, fun _ => rfl, driveLine_answers _⟩
  case takeReport => exact ⟨_, fun _ => rfl, takeReport_answers _⟩
  case setReportMask => exact ⟨_, fun _ => rfl, setReportMask_answers _⟩
  case attach => exact ⟨_, fun _ => rfl, attach_answers _⟩
  case detach => exact ⟨_, fun _ => rfl, detach_answers _⟩
  case status => exact ⟨_, fun _ => rfl, status_answers _⟩

/-- What the checks before a rule let through, and what they refuse, answers as a rule does. -/
theorem gate_answers {row : CommandRow} {p : Port} {ps : List Byte} {f : State → Reply} {s : State}
    (h : Answers p s (f s)) : Answers p s (gate row p ps f s) := by
  rcases gate_cases row p ps f s with ⟨r, hr⟩ | ⟨hf, -, -⟩
  · rw [hr]
    exact .refuse r
  · rw [hf]
    exact h

/-- Settles O12: each rule refuses without effect (`Answers`), and the response alone is put in the slot. -/
theorem refusedCommandsChangeNothing : Obligations.RefusedCommandsChangeNothing := by
  intro i p row c d o s t r hrow hpends hcode hexec hready hrefused
  obtain ⟨body, hbody, hanswers⟩ := exec_of_rowOf_answers hrow
  have hreply := gate_answers (row := row) (ps := c.params) (hanswers c.params s.settleTick)
  rw [hbody, execution_of_pending hpends hcode] at hexec
  generalize gate row p c.params (body p c.params) s.settleTick = reply at hexec hreply
  obtain rfl := Host.Outcome.next.inj hexec
  rw [complete_slot] at hready
  obtain rfl := Slot.ready.inj hready
  have hstate : reply.state = s.settleTick := hreply.refused hrefused
  simp only [complete, hstate]

end Sys2Proof.Machine

/-! Transactions at a port (R158 to R164, R168, R172): which are ignored, what a command write makes of the slot, and
what a response read sends of it. -/

namespace Sys2Proof.Machine

open Claims

/-! ### Transactions that are ignored (R158, R168, R172) -/

section

variable {p : Port} {t : Transaction} {s : State}

theorem execCommandWrite_ignored (h : ¬ s.takes p t ∨ t.bytes.head? ≠ some 0xC3) :
    execCommandWrite p t s = .next (ignoreTransaction p t s) := by
  unfold execCommandWrite
  split
  · rename_i type frame hbytes
    rw [hbytes] at h
    refine if_neg fun ⟨htakes, htype⟩ => ?_
    rcases h with hnot | hother
    · exact hnot htakes
    · exact hother (congrArg some htype)
  · rfl

theorem execResponseRead_ignored (h : ¬ s.takes p t ∨ t.bytes.head? ≠ some 0x3C) :
    execResponseRead p t s = .next (ignoreTransaction p t s) := by
  unfold execResponseRead
  split
  · rename_i type rest hbytes
    rw [hbytes] at h
    refine if_neg fun ⟨htakes, htype⟩ => ?_
    rcases h with hnot | hother
    · exact hnot htakes
    · exact hother (congrArg some htype)
  · rfl

/-- Where no input is asserted, the port drives the bits of $FF (R158). -/
theorem ignoredSdo_of_negated (hdevice : s.resetAsserted = false) (hport : (s.ports.get p).resetAsserted = false) :
    s.ignoredSdo p t = List.replicate t.bits.length true := by
  unfold State.ignoredSdo
  rw [if_neg (by simp [hdevice, hport]), clockedOut_nil]

theorem not_takes (h : s.resetAsserted = true ∨ (s.ports.get p).resetAsserted = true ∨
    t.fellBeforeNegation = true) : ¬ s.takes p t := by
  rintro ⟨hdevice, hport, hfell⟩
  simp [hdevice, hport, hfell] at h

end

/-- Settles O5: in each case the port does not take the transaction, or takes it for one of neither type. -/
theorem otherTransactionsIgnored : Obligations.OtherTransactionsIgnored := by
  intro p t s h i hi
  have hnone : (¬ s.takes p t ∨ t.bytes.head? ≠ some 0xC3) ∧ (¬ s.takes p t ∨ t.bytes.head? ≠ some 0x3C) := by
    rcases h with hdevice | hport | hfell | hempty | ⟨hwrite, hread⟩
    · exact ⟨.inl (not_takes (.inl hdevice)), .inl (not_takes (.inl hdevice))⟩
    · exact ⟨.inl (not_takes (.inr (.inl hport))), .inl (not_takes (.inr (.inl hport)))⟩
    · exact ⟨.inl (not_takes (.inr (.inr hfell))), .inl (not_takes (.inr (.inr hfell)))⟩
    · exact ⟨.inr (by simp [hempty]), .inr (by simp [hempty])⟩
    · exact ⟨.inr hwrite, .inr hread⟩
  have hignored : exec i s = .next (ignoreTransaction p t s) := by
    rcases hi with rfl | rfl
    · exact execCommandWrite_ignored hnone.1
    · exact execResponseRead_ignored hnone.2
  rw [hignored, ignoreTransaction, State.ignoredSdo, clockedOut_nil]

/-! ### A frame at the slot (R160, R161) -/

/-- Settles O4: the frame is judged, and each state of the slot takes it or marks it lost. -/
theorem commandWriteAtSlot : Obligations.CommandWriteAtSlot := by
  intro p t frame s hdevice hport hfell hbytes
  refine ⟨arrival s p frame, ?_, fun c hc => ?_, fun hbad => ?_⟩
  · change execCommandWrite p t s = _
    unfold execCommandWrite
    rw [hbytes, ← ignoredSdo_of_negated hdevice hport]
    exact if_pos ⟨⟨hdevice, hport, hfell⟩, rfl⟩
  · unfold arrival
    rw [hc]
    refine ⟨fun hslot => ?_, fun r hslot => ?_, fun c' d o hslot => ?_⟩ <;> rw [hslot] <;> rfl
  · unfold arrival
    rw [hbad]
    refine ⟨fun hslot => ?_, fun r hslot => ?_, fun c' d o hslot => ?_⟩ <;> rw [hslot] <;> rfl

/-! ### A response read (R164) -/

theorem bitsMostSignificantFirst_eq (b : Byte) : bitsMostSignificantFirst b = bitsOf b := rfl

/-- Settles O6: each state of the slot with what it sends and what the read leaves of it. -/
theorem responseReadSendsSlot : Obligations.ResponseReadSendsSlot := by
  intro p t rest s hdevice hport hfell hbytes
  refine ⟨(s.ports.get p).slot.afterRead t.executedWithin rest.length,
    (s.ports.get p).slot.answer t.executedWithin, ?_, fun hslot => ?_, fun c d o hslot => ?_, fun r hslot => ?_⟩
  · change execResponseRead p t s = _
    unfold execResponseRead
    rw [hbytes]
    exact if_pos ⟨⟨hdevice, hport, hfell⟩, rfl⟩
  · rw [hslot]
    exact ⟨rfl, rfl⟩
  · rw [hslot]
    exact ⟨rfl, rfl⟩
  · rw [hslot]
    refine ⟨fun hwithin => ?_, fun hbefore => ?_⟩
    · rw [hwithin]
      exact ⟨rfl, rfl⟩
    · rw [hbefore]
      exact ⟨rfl, fun hwhole => if_pos ⟨rfl, hwhole⟩, fun hcut => if_neg fun x => Nat.not_le.2 hcut x.2⟩

end Sys2Proof.Machine

/-! The reset inputs (R168, R172): under nRESET every event but its negation leaves the reset values, and a port
under nPRSTn stays DETACHED with its slot EMPTY. -/

namespace Sys2Proof.Machine

open Claims

/-! ### Ports under nPRSTn (R168) -/

/-- Under nPRSTn the slot is EMPTY and the session DETACHED. -/
def HostPort.Held (x : HostPort) : Prop := x.resetAsserted = true → x.slot = .empty ∧ x.session ≠ .attached

/-- Every port is so held. -/
def HeldPorts (s : State) : Prop := ∀ p, (s.ports.get p).Held

theorem resetsHold_iff {s : State} :
    ResetsHold s ↔ (s.resetAsserted = true → s = deviceReset s) ∧ HeldPorts s :=
  and_congr_right fun _ => ⟨fun h p => h p (Port.mem_all p), fun h p _ => h p⟩

theorem HostPort.Held.congr {x y : HostPort} (hpin : y.resetAsserted = x.resetAsserted) (hslot : y.slot = x.slot)
    (hsession : y.session = x.session) (h : x.Held) : y.Held := by
  unfold HostPort.Held
  rwa [hpin, hslot, hsession]

theorem HostPort.held_of_negated {x : HostPort} (h : x.resetAsserted = false) : x.Held :=
  fun hpin => absurd (hpin.symm.trans h) (by decide)

/-- A port whose slot is not EMPTY is not under nPRSTn. -/
theorem HostPort.Held.negated {x : HostPort} {c : Command} {d o : Bool} (h : x.Held)
    (hslot : x.slot = .pending c d o) : x.resetAsserted = false := by
  rw [← Bool.not_eq_true]
  intro hpin
  obtain ⟨hempty, -⟩ := h hpin
  rw [hslot] at hempty
  cases hempty

/-! ### What an event does to the inputs -/

/-- Ports that are held stay held, and nRESET is not asserted. -/
structure KeepsInputs (s t : State) : Prop where
  held : HeldPorts s → HeldPorts t
  negated : t.resetAsserted = true → s.resetAsserted = true

theorem KeepsInputs.trans {a b c : State} (h : KeepsInputs a b) (k : KeepsInputs b c) : KeepsInputs a c :=
  ⟨fun ha => k.held (h.held ha), fun hc => h.negated (k.negated hc)⟩

theorem SamePorts.keepsInputs {s t : State} (h : SamePorts s t) : KeepsInputs s t :=
  ⟨fun hs p => by rw [h.ports]; exact hs p, fun ht => h.resetAsserted ▸ ht⟩

theorem KeepsInputs.refl (s : State) : KeepsInputs s s := SamePorts.keepsInputs ⟨rfl, rfl⟩

theorem keepsInputs_putPort {s : State} {p : Port} {x : HostPort} (h : (s.ports.get p).Held → x.Held) :
    KeepsInputs s (s.putPort p x) := by
  refine ⟨fun hs q => ?_, id⟩
  rw [State.putPort_ports, PerPort.get_put_eq]
  split
  · exact h (hs p)
  · exact hs q

theorem keepsInputs_settleTick (s : State) : KeepsInputs s s.settleTick :=
  (leavesPorts_settleTick s).toSamePorts.keepsInputs

/-- The response of a command stands in the slot of a port that is not under nPRSTn. -/
theorem keepsInputs_complete {p : Port} {c : Command} {d o : Bool} {s : State} {r : Reply}
    (hpends : Pends p c d o s) (hr : PortsButSession p s r.state) :
    KeepsInputs s (complete p c.tag d o r) := by
  refine ⟨fun hs q => ?_, fun ht => hr.resetAsserted ▸ ht⟩
  by_cases hq : q = p
  · subst hq
    refine HostPort.held_of_negated ?_
    simp only [complete, State.putSlot_ports, PerPort.get_put]
    exact (hr.pin q).trans ((hs q).negated hpends)
  · have hother : (complete p c.tag d o r).ports.get q = r.state.ports.get q := by
      simp only [complete, State.putSlot_ports, PerPort.get_put_of_ne _ _ hq]
    rw [hother]
    exact (hs q).congr (hr.pin q) (hr.slot q) (hr.session q hq)

theorem keepsInputs_execution {row : CommandRow} {body : Port → List Byte → State → Reply} {p : Port} {s t : State}
    (hbody : ∀ ps u, Answers p u (body p ps u)) (h : execution row body p s = .next t) : KeepsInputs s t := by
  rcases execution_cases h with ⟨c, d, o, hpends, -, rfl⟩ | ⟨-, hsame⟩
  · exact (keepsInputs_settleTick s).trans (keepsInputs_complete hpends (gate_answers (hbody _ _)).ports)
  · exact hsame ▸ .refl s

theorem keepsInputs_ignoreTransaction (p : Port) (x : Transaction) (s : State) :
    KeepsInputs s (ignoreTransaction p x s) :=
  keepsInputs_putPort fun h => h.congr rfl rfl rfl

/-- A transaction acts on the slot of a port that takes it, which is not under nPRSTn. -/
theorem keepsInputs_commandWrite {p : Port} {x : Transaction} {s t : State} (h : execCommandWrite p x s = .next t) :
    KeepsInputs s t := by
  unfold execCommandWrite at h
  split at h
  · split at h <;> cases h
    · rename_i htaken
      obtain ⟨⟨-, hport, -⟩, -⟩ := htaken
      exact keepsInputs_putPort fun _ => HostPort.held_of_negated hport
    · exact keepsInputs_ignoreTransaction p x s
  · cases h
    exact keepsInputs_ignoreTransaction p x s

theorem keepsInputs_responseRead {p : Port} {x : Transaction} {s t : State} (h : execResponseRead p x s = .next t) :
    KeepsInputs s t := by
  unfold execResponseRead at h
  split at h
  · split at h <;> cases h
    · rename_i htaken
      obtain ⟨⟨-, hport, -⟩, -⟩ := htaken
      exact keepsInputs_putPort fun _ => HostPort.held_of_negated hport
    · exact keepsInputs_ignoreTransaction p x s
  · cases h
    exact keepsInputs_ignoreTransaction p x s

theorem keepsInputs_unknownCommand {p : Port} {s t : State} (h : execUnknownCommand p s = .next t) :
    KeepsInputs s t := by
  unfold execUnknownCommand at h
  split at h
  · rename_i c d o hpends
    split at h <;> cases h
    · exact .refl s
    · exact (keepsInputs_settleTick s).trans
        (keepsInputs_complete (s := s.settleTick) hpends (Answers.refuse .unknownCommand).ports)
  · cases h
    exact .refl s

theorem keepsInputs_edgeRecognized {l : EvLine} {level : Level} {held : Nat} {s t : State}
    (h : execEdgeRecognized l level held s = .next t) : KeepsInputs s t := by
  unfold execEdgeRecognized at h
  split at h <;> cases h
  · exact ((leavesPorts_settleTick s).trans (leavesPorts_recognizedEdge l level _)).toSamePorts.keepsInputs
  · exact .refl s

theorem keepsInputs_refclkAdvance {s t : State} (h : execRefclkAdvance s = .next t) : KeepsInputs s t := by
  unfold execRefclkAdvance at h
  split at h <;> cases h
  · exact .refl s
  · exact (((leavesPorts_settleTick s).trans (leavesPorts_takeDueEnds _)).trans
      (leavesPorts_advance _)).toSamePorts.keepsInputs

theorem not_attached_endSession (p : Port) (s : State) : ¬ (endSession p s).attached p := by
  have hsession (u : State) : ((endPort p u).ports.get p).session = .detached := by
    change ((u.ports.put p _).get p).session = .detached
    rw [PerPort.get_put]
  intro hattached
  cases (hsession _).symm.trans hattached

/-- The assertion of nPRSTn empties the slot, and the port is or becomes DETACHED (R168). -/
theorem keepsInputs_portReset {p : Port} {s t : State} (h : execPortReset p s = .next t) : KeepsInputs s t := by
  unfold execPortReset at h
  dsimp only at h
  split at h <;> cases h
  · have hended := portsButSession_endSession p (assertPortReset p s.settleTick)
    refine ⟨fun hs q => ?_, fun ht => hended.resetAsserted ▸ ht⟩
    by_cases hq : q = p
    · subst hq
      intro _
      refine ⟨(hended.slot q).trans ?_, not_attached_endSession q _⟩
      simp [assertPortReset]
    · have hother : (assertPortReset p s.settleTick).ports.get q = s.ports.get q := by
        simp [assertPortReset, hq]
      exact (hs q).congr ((hended.pin q).trans (by rw [hother])) ((hended.slot q).trans (by rw [hother]))
        ((hended.session q hq).trans (by rw [hother]))
  · rename_i hdetached
    exact (keepsInputs_settleTick s).trans (keepsInputs_putPort fun _ _ => ⟨rfl, hdetached⟩)

theorem keepsInputs_resetNegation {pins : PerEv Level} {s t : State} (h : execResetNegation pins s = .next t) :
    KeepsInputs s t := by
  unfold execResetNegation at h
  split at h <;> cases h
  · exact ⟨id, nofun⟩
  · exact .refl s

/-- Every command and event but DEVICE_RESET. -/
theorem keepsInputs_exec {i : Instr} {s t : State} (h : exec i s = .next t) (hi : i ≠ .deviceReset) :
    KeepsInputs s t := by
  cases hrow : rowOf i with
  | some x =>
    obtain ⟨p, row⟩ := x
    obtain ⟨body, hbody, hanswers⟩ := exec_of_rowOf_answers hrow
    exact keepsInputs_execution hanswers (hbody s ▸ h)
  | none =>
    have settled := leavesPorts_settleTick s
    cases i <;> simp only [rowOf, reduceCtorEq] at hrow
    case commandWrite p x => exact keepsInputs_commandWrite h
    case responseRead p x => exact keepsInputs_responseRead h
    case unknownCommand p => exact keepsInputs_unknownCommand h
    case refclkAdvance => exact keepsInputs_refclkAdvance h
    case elapsedTick => exact Host.Outcome.next.inj h ▸ settled.toSamePorts.keepsInputs
    case slewEnd => exact Host.Outcome.next.inj h ▸ (settled.trans (leavesPorts_slewEnd _)).toSamePorts.keepsInputs
    case leaseExpiry =>
      exact Host.Outcome.next.inj h ▸ (settled.trans (leavesPorts_leaseExpiry _)).toSamePorts.keepsInputs
    case edgeRecognized l level held => exact keepsInputs_edgeRecognized h
    case pulseEnd o =>
      exact Host.Outcome.next.inj h ▸ (settled.trans (leavesPorts_pulseEnd o _)).toSamePorts.keepsInputs
    case portReset p => exact keepsInputs_portReset h
    case deviceReset => exact absurd rfl hi
    case resetNegation pins => exact keepsInputs_resetNegation h
    case portResetNegation p =>
      exact Host.Outcome.next.inj h ▸ keepsInputs_putPort fun _ => HostPort.held_of_negated rfl

/-! ### The part under nRESET (R172) -/

theorem deviceReset_port (s : State) (p : Port) :
    (deviceReset s).ports.get p = .reset (s.ports.get p).resetAsserted := by
  cases p <;> rfl

theorem deviceReset_putPort (s : State) (p : Port) (pin : Bool) :
    deviceReset (s.putPort p (.reset pin)) = (deviceReset s).putPort p (.reset pin) := by
  cases p <;> rfl

theorem heldPorts_deviceReset (s : State) : HeldPorts (deviceReset s) := by
  intro p
  rw [deviceReset_port]
  exact fun _ => ⟨rfl, nofun⟩

section

variable {s : State} (hreset : s.resetAsserted = true) (h : s = deviceReset s)

include h

theorem port_of_reset (p : Port) : s.ports.get p = .reset (s.ports.get p).resetAsserted := by
  conv_lhs => rw [h]
  exact deviceReset_port s p

theorem settleTick_of_reset : s.settleTick = s :=
  State.settleTick_eq_self (by rw [h]; exact Nat.zero_lt_succ 99)

/-- A pin that is driven is all that changes. -/
theorem reset_putPort (p : Port) (pin : Bool) :
    s.putPort p (.reset pin) = deviceReset (s.putPort p (.reset pin)) := by
  rw [deviceReset_putPort, ← h]

/-- No port holds a command. -/
theorem not_pends_of_reset (p : Port) (c : Command) (d o : Bool) : ¬ Pends p c d o s := by
  intro hpends
  have hempty : (s.ports.get p).slot = .empty := by rw [port_of_reset h]; rfl
  cases hempty.symm.trans hpends

include hreset

theorem ignoreTransaction_of_reset (p : Port) (x : Transaction) : ignoreTransaction p x s = s := by
  have hsdo : s.ignoredSdo p x = (s.ports.get p).sdo := by
    unfold State.ignoredSdo
    rw [if_pos (.inl hreset), port_of_reset h]
    rfl
  unfold ignoreTransaction
  rw [hsdo]
  exact congrArg (fun ports => { s with ports := ports }) (s.ports.put_get p)

/-- Under nRESET an event leaves the reset values but for the pin it drives, or is the negation of nRESET. -/
theorem exec_of_reset {i : Instr} {t : State} (hexec : exec i s = .next t) (ht : t.resetAsserted = true) :
    t = deviceReset t := by
  have hsettled := settleTick_of_reset h
  have hsame : t = s → t = deviceReset t := fun hts => hts ▸ h
  have hnottakes (p : Port) (x : Transaction) : ¬ s.takes p x := not_takes (.inl hreset)
  cases hrow : rowOf i with
  | some x =>
    obtain ⟨p, row⟩ := x
    obtain ⟨body, hbody⟩ := exec_of_rowOf hrow
    rw [hbody, execution_of_not_pending fun c d o hpends => absurd hpends (not_pends_of_reset h p c d o)] at hexec
    exact hsame (Host.Outcome.next.inj hexec).symm
  | none =>
    cases i <;> simp only [rowOf, reduceCtorEq] at hrow
    case commandWrite p x =>
      have hignored := execCommandWrite_ignored (.inl (hnottakes p x))
      rw [ignoreTransaction_of_reset hreset h] at hignored
      exact hsame (Host.Outcome.next.inj (hexec.symm.trans hignored))
    case responseRead p x =>
      have hignored := execResponseRead_ignored (.inl (hnottakes p x))
      rw [ignoreTransaction_of_reset hreset h] at hignored
      exact hsame (Host.Outcome.next.inj (hexec.symm.trans hignored))
    case unknownCommand p =>
      refine hsame ?_
      change execUnknownCommand p s = _ at hexec
      unfold execUnknownCommand at hexec
      split at hexec
      · rename_i hpends
        exact absurd hpends (not_pends_of_reset h p _ _ _)
      · exact (Host.Outcome.next.inj hexec).symm
    case refclkAdvance => exact hsame (Host.Outcome.next.inj (hexec.symm.trans (if_pos hreset)))
    case elapsedTick => exact hsame ((Host.Outcome.next.inj hexec).symm.trans hsettled)
    case slewEnd =>
      have hnone : slewEnd s = s := slewEnd_of_not_reached (by rw [h]; nofun)
      exact hsame ((Host.Outcome.next.inj hexec).symm.trans ((congrArg slewEnd hsettled).trans hnone))
    case leaseExpiry =>
      have hnone : leaseExpiry s = s := leaseExpiry_of_not_reached (by rw [h]; nofun)
      exact hsame ((Host.Outcome.next.inj hexec).symm.trans ((congrArg leaseExpiry hsettled).trans hnone))
    case edgeRecognized l level held =>
      exact hsame (Host.Outcome.next.inj (hexec.symm.trans (execEdgeRecognized_ignored (.inl hreset))))
    case pulseEnd o =>
      have hnone : pulseEnd o s = s := pulseEnd_of_not_reached (by rw [h]; cases o <;> nofun)
      exact hsame ((Host.Outcome.next.inj hexec).symm.trans ((congrArg (pulseEnd o) hsettled).trans hnone))
    case portReset p =>
      have hdetached : ¬ s.attached p := by
        unfold State.attached
        rw [port_of_reset h]
        nofun
      have hasserted : assertPortReset p s.settleTick = s.putPort p (.reset true) := by
        rw [hsettled, assertPortReset, port_of_reset h]
        rfl
      have hexec' : execPortReset p s = .next (assertPortReset p s.settleTick) := if_neg hdetached
      rw [← Host.Outcome.next.inj (hexec'.symm.trans hexec), hasserted]
      exact reset_putPort h p true
    case deviceReset =>
      rw [← Host.Outcome.next.inj hexec]
      rfl
    case resetNegation pins =>
      have hnegated := Host.Outcome.next.inj (hexec.symm.trans (if_pos hreset))
      rw [hnegated] at ht
      cases ht
    case portResetNegation p =>
      have hnegated : t = s.putPort p (.reset false) := by
        rw [← Host.Outcome.next.inj hexec, port_of_reset h]
        rfl
      rw [hnegated]
      exact reset_putPort h p false

end

/-- Settles O60: under nRESET only a pin or the input itself can change (`exec_of_reset`); otherwise only
DEVICE_RESET asserts it, and what touches a slot or a session does so at a port that is not under nPRSTn, but
for the reset that empties the slot and ends the session (`KeepsInputs`). -/
theorem resetInputsHold : Obligations.ResetInputsHold := by
  intro s t hs h
  unfold step at h
  split at h
  · exact Host.Outcome.next.inj h ▸ hs
  · rename_i i rest _
    obtain ⟨hdevice, hports⟩ := resetsHold_iff.1 hs
    have hqueue : s.resetAsserted = true →
        ({ s with pending := rest } : State) = deviceReset { s with pending := rest } :=
      fun hreset => congrArg (fun u : State => { u with pending := rest }) (hdevice hreset)
    by_cases hi : i = .deviceReset
    · subst hi
      obtain rfl := Host.Outcome.next.inj h
      exact resetsHold_iff.2 ⟨fun _ => rfl, heldPorts_deviceReset _⟩
    · have hkept := keepsInputs_exec h hi
      exact resetsHold_iff.2 ⟨fun ht => exec_of_reset (hkept.negated ht) (hqueue (hkept.negated ht)) h ht,
        hkept.held hports⟩

end Sys2Proof.Machine

/-! The execution event of a command (R162, R163, R176): one step runs the front of the queue, the checks before a
command's own rule come in their order, and the answer is all that the event adds to the slot. -/

namespace Sys2Proof.Machine

open Claims

/-! ### One step (R162) -/

/-- Every command and event has an effect. -/
theorem exec_next (i : Instr) (s : State) : ∃ t, exec i s = .next t := by
  cases hrow : rowOf i with
  | some x =>
    obtain ⟨body, hbody⟩ := exec_of_rowOf hrow
    rw [hbody]
    exact execution_next
  | none =>
    cases i <;> simp only [rowOf, reduceCtorEq] at hrow
    case commandWrite p x =>
      change ∃ t, execCommandWrite p x s = _
      unfold execCommandWrite
      split
      · split <;> exact ⟨_, rfl⟩
      · exact ⟨_, rfl⟩
    case responseRead p x =>
      change ∃ t, execResponseRead p x s = _
      unfold execResponseRead
      split
      · split <;> exact ⟨_, rfl⟩
      · exact ⟨_, rfl⟩
    case unknownCommand p =>
      change ∃ t, execUnknownCommand p s = _
      unfold execUnknownCommand
      split
      · split <;> exact ⟨_, rfl⟩
      · exact ⟨_, rfl⟩
    case refclkAdvance =>
      change ∃ t, execRefclkAdvance s = _
      unfold execRefclkAdvance
      split <;> exact ⟨_, rfl⟩
    case edgeRecognized l level held =>
      change ∃ t, execEdgeRecognized l level held s = _
      unfold execEdgeRecognized
      split <;> exact ⟨_, rfl⟩
    case portReset p =>
      change ∃ t, execPortReset p s = _
      unfold execPortReset
      dsimp only
      split <;> exact ⟨_, rfl⟩
    case resetNegation pins =>
      change ∃ t, execResetNegation pins s = _
      unfold execResetNegation
      split <;> exact ⟨_, rfl⟩
    all_goals exact ⟨_, rfl⟩

/-- Settles O1: the step takes the front of the queue, and `exec` has a next state for each of its arms. -/
theorem stepRunsFrontCommand : Obligations.StepRunsFrontCommand := by
  refine ⟨fun c s => rfl, fun s hempty => ?_, fun s => ?_⟩
  · unfold step
    rw [hempty]
  · unfold step
    split
    · exact ⟨s, rfl⟩
    · exact exec_next _ _

/-! ### The checks before a command's own rule (R36, R162) -/

/-- Settles O10: an execution event is that of a pending command of the row's code. -/
theorem noPendingCommandNoEvent : Obligations.NoPendingCommandNoEvent := by
  intro i p row s hrow hnone
  obtain ⟨body, hbody⟩ := exec_of_rowOf hrow
  rw [hbody]
  exact execution_of_not_pending hnone

/-- The commands that a detached port may issue (R162). -/
theorem anySession_iff {i : Instr} {p : Port} {row : CommandRow} (h : rowOf i = some (p, row)) :
    row.anySession = true ↔ i = .attach p ∨ i = .readTime p ∨ i = .status p := by
  cases i <;> simp only [rowOf, Option.some.injEq, Prod.mk.injEq, reduceCtorEq] at h <;>
    obtain ⟨rfl, rfl⟩ := h <;> simp [Row.readTime, Row.attach, Row.status] <;> decide

/-- The commands of Table 2-2 (R36). -/
theorem needsAuthority_iff {i : Instr} {p : Port} {row : CommandRow} (h : rowOf i = some (p, row)) :
    row.needsAuthority = true ↔ i = .loadTime p ∨ i = .stepTime p ∨ i = .setRate p ∨ i = .startSlew p ∨
      i = .stopSlew p ∨ i = .setQuota p ∨ i = .holdReleases p ∨ i = .resumeReleases p ∨ i = .armAlign p ∨
      i = .disarmAlign p := by
  cases i <;> simp only [rowOf, Option.some.injEq, Prod.mk.injEq, reduceCtorEq] at h <;>
    obtain ⟨rfl, rfl⟩ := h <;> simp <;> decide

/-- Settles O9: the gate before each rule, with the rows that the tables exempt or name. -/
theorem checksBeforeOwnRule : Obligations.ChecksBeforeOwnRule := by
  intro i p row c d o s hrow hpends hcode
  obtain ⟨body, hbody⟩ := exec_of_rowOf hrow
  have hexec : exec i s =
      .next (complete p c.tag d o (gate row p c.params (body p c.params) s.settleTick)) := by
    rw [hbody, execution_of_pending hpends hcode]
  refine ⟨anySession_iff hrow, needsAuthority_iff hrow, fun hneeds hdetached => ?_,
    fun hattached hneeds hother => ?_, fun hattached hholder hshort => ?_⟩
  · rw [hexec, gate_notAttached (s := s.settleTick) hneeds hdetached]
    rfl
  · rw [hexec, gate_notAuthority (s := s.settleTick) hattached hneeds hother]
    rfl
  · rw [hexec, gate_short (s := s.settleTick) hattached hholder hshort]
    rfl

/-- The codes of Table 10-6. -/
theorem commandTable_codes : (commandTable.map (·.code)).map BitVec.toNat =
    [0x01, 0x02, 0x03, 0x04, 0x05, 0x06, 0x10, 0x11, 0x12, 0x13, 0x20, 0x21, 0x22, 0x23, 0x30, 0x31, 0x32, 0x33,
      0x34, 0x35, 0x36, 0x40, 0x41, 0x42, 0x43, 0x44, 0x50, 0x51, 0x52, 0x53, 0x54, 0x55, 0x58, 0x60, 0x61, 0x70,
      0x71, 0x72] := rfl

/-- Settles O8: a code outside the table fails before the session is looked at. -/
theorem unassignedCodeIsUnknown : Obligations.UnassignedCodeIsUnknown := by
  intro p c d o s hpends hcode
  have hunassigned : c.code ∉ commandTable.map (·.code) := fun hmem =>
    hcode (commandTable_codes ▸ List.mem_map_of_mem hmem)
  change execUnknownCommand p s = _
  unfold execUnknownCommand
  rw [hpends]
  exact if_neg hunassigned

/-! ### The answer (R163, R176) -/

theorem reportsFlag_eq (s : State) (p : Port) : s.reportsFlag p = decide ((s.reports.get p).reports ≠ []) := by
  rw [Bool.eq_iff_iff, reportsFlag_iff, decide_eq_true_iff]

theorem inboxFlag_eq (s : State) (p : Port) : s.inboxFlag p = decide ((s.inboxes.get p).records ≠ []) := by
  unfold State.inboxFlag
  cases (s.inboxes.get p).records <;> rfl

/-- Settles O7: the response with its two flags, in the slot of the port alone. -/
theorem answerMakesSlotReady : Obligations.AnswerMakesSlotReady := by
  intro p c d o r payload t f
  have hresponse : t.response p c.tag d o ⟨r, payload⟩ = f := by
    unfold State.response
    rw [reportsFlag_eq, inboxFlag_eq]
  refine ⟨?_, fun q hq => ?_, rfl⟩
  · rw [← hresponse]
    rfl
  · exact PerPort.get_put_of_ne _ _ hq

end Sys2Proof.Machine

/-! Numbers and frames on a port (R158, R159, R173, R174): a number is read back from the bytes it was sent in, a
transaction holds the bytes that its bits spell, and a command frame is judged by its length byte, its bytes
clocked and its CRC. -/

namespace Sys2Proof.Machine

open Claims

/-! ### Numbers, most significant byte first (R173) -/

@[simp] theorem be_length (w v : Nat) : (be w v).length = w := by
  induction w with
  | zero => rfl
  | succ w ih => rw [be, List.length_cons, ih]

/-- The bytes behind `n` read on as the next digits to base 256. -/
theorem foldl_be (w v n : Nat) :
    (be w v).foldl (fun n b => n * 256 + b.toNat) n = n * 256 ^ w + v % 256 ^ w := by
  induction w generalizing n with
  | zero => simp [be, Nat.mod_one]
  | succ w ih =>
    rw [be, List.foldl_cons, ih, BitVec.toNat_ofNat, Nat.mod_pow_succ (b := 256), Nat.pow_succ]
    ring

theorem natOfBytes_be {w v : Nat} (h : v < 256 ^ w) : natOfBytes (be w v) = v := by
  rw [natOfBytes, foldl_be, Nat.zero_mul, Nat.zero_add, Nat.mod_eq_of_lt h]

/-- The bytes of a number do not depend on what lies above their width. -/
theorem be_mod (w v k : Nat) (h : w ≤ k) : be w (v % 256 ^ k) = be w v := by
  induction w with
  | zero => rfl
  | succ w ih =>
    rw [be, be, ih (Nat.le_of_succ_le h)]
    congr 1
    apply BitVec.eq_of_toNat_eq
    have hk : 256 ^ k = 256 ^ w * (256 * 256 ^ (k - (w + 1))) := by
      rw [← Nat.pow_succ', ← Nat.pow_add]
      congr 1
      omega
    rw [BitVec.toNat_ofNat, BitVec.toNat_ofNat, hk, Nat.mod_mul_right_div_self,
      Nat.mod_mod_of_dvd _ (Nat.dvd_mul_right 256 _)]

/-- A field is read back from the bytes that stand there. -/
theorem field_append (front bytes back : List Byte) :
    field (front ++ bytes ++ back) front.length bytes.length = natOfBytes bytes := by
  rw [field, List.append_assoc, List.drop_left, List.take_left]

theorem field_be {w v : Nat} (front back : List Byte) (h : v < 256 ^ w) :
    field (front ++ be w v ++ back) front.length w = v := by
  have hread := field_append front (be w v) back
  rwa [be_length, natOfBytes_be h] at hread

/-- A rate crosses in two's complement. -/
theorem rateField_rateBytes {r : Int} (front back : List Byte) (hlow : -2147483648 ≤ r) (hhigh : r ≤ 2147483647) :
    rateField (front ++ rateBytes r ++ back) front.length = r := by
  have hlt : (BitVec.ofInt 32 r).toNat < 256 ^ 4 := (BitVec.ofInt 32 r).isLt
  rw [rateField, rateBytes, field_be front back hlt, BitVec.ofNat_toNat, BitVec.setWidth_eq, BitVec.toInt_ofInt]
  exact Int.bmod_eq_of_le (by omega) (by omega)

/-! ### The bits of a transaction (R158) -/

/-- A transaction holds the bytes that its bits spell; what is left of a last byte is discarded. -/
theorem shiftIn_bytes (bytes : List Byte) {broken : List Bool} (h : broken.length < 8) :
    shiftIn (bytes.flatMap bitsOf ++ broken) 0 0 = bytes := by
  induction bytes with
  | nil => exact shiftIn_of_lt broken 0 0 (by omega)
  | cons b rest ih => rw [List.flatMap_cons, List.append_assoc, shiftIn_bitsOf, ih]

/-- Settles O2: each number and each byte by the lemma that reads it back. -/
theorem numbersMostSignificantFirst : Obligations.NumbersMostSignificantFirst := by
  refine ⟨fun w v front back h => ⟨be_length w v, field_be front back h⟩, fun w v => ?_,
    fun r front back hlow hhigh => rateField_rateBytes front back hlow hhigh,
    fun bytes broken t hbroken hbits => ?_⟩
  · rw [be_mod w v w (Nat.le_refl w), be]
  · rw [Transaction.bytes, hbits]
    exact shiftIn_bytes bytes hbroken

/-! ### A command frame (R159, R174) -/

/-- A frame whose length byte is out of range is bad. -/
theorem judgeFrame_badLength {n : Byte} {rest : List Byte} (h : n.toNat < 2 ∨ 45 < n.toNat) :
    judgeFrame (n :: rest) = none := by
  have hlength : field (n :: rest) 0 1 = n.toNat := field_one _ 0
  unfold judgeFrame
  rw [hlength]
  dsimp only
  rw [if_pos h, ite_self]

/-- A frame of which fewer bytes were clocked than its length byte calls for is bad. -/
theorem judgeFrame_short {n : Byte} {rest : List Byte} (h : rest.length < n.toNat + 2) :
    judgeFrame (n :: rest) = none := by
  have hlength : field (n :: rest) 0 1 = n.toNat := field_one _ 0
  unfold judgeFrame
  rw [hlength]
  exact if_pos (.inr (by rw [List.length_cons]; omega))

/-- Any other frame is judged by its CRC, whatever is clocked behind it. -/
theorem judgeFrame_covered {n hi lo : Byte} {body : List Byte} (extra : List Byte) (hbody : body.length = n.toNat)
    (hlow : 2 ≤ n.toNat) (hhigh : n.toNat ≤ 45) :
    judgeFrame (n :: body ++ hi :: lo :: extra) = if [hi, lo] ≠ crcBytes (n :: body) then none
      else some ⟨byteField (n :: body ++ hi :: lo :: extra) 1, byteField (n :: body ++ hi :: lo :: extra) 2,
        (n :: body).drop 3⟩ := by
  have hlength : field (n :: body ++ hi :: lo :: extra) 0 1 = n.toNat := field_one _ 0
  have hcovered : n.toNat + 1 = (n :: body).length := by rw [List.length_cons, hbody]
  have hall : ¬ ((n :: body ++ hi :: lo :: extra).length = 0 ∨
      (n :: body ++ hi :: lo :: extra).length < n.toNat + 3) := by
    simp only [List.length_append, List.length_cons, hbody]
    omega
  unfold judgeFrame
  rw [hlength, if_neg hall, if_neg (by omega), hcovered, List.take_left, List.drop_left]
  rfl

theorem frameOf_eq (c : Command) : frameOf c =
    (BitVec.ofNat 8 (c.params.length + 2) :: c.code :: c.tag :: c.params) ++
      crcBytes (BitVec.ofNat 8 (c.params.length + 2) :: c.code :: c.tag :: c.params) := by
  unfold frameOf crcBytes
  dsimp only
  generalize crc _ = r
  have hbytes : be 2 r.toNat = [BitVec.ofNat 8 (r.toNat / 256), BitVec.ofNat 8 (r.toNat % 256)] := by
    have hlow : be 1 r.toNat = be 1 (r.toNat % 256) := (be_mod 1 r.toNat 1 (Nat.le_refl 1)).symm
    rw [be, hlow, be, be, Nat.pow_one, Nat.pow_zero, Nat.div_one]
  rw [hbytes]

theorem lengthByte_toNat {n : Nat} (h : n ≤ 43) : (BitVec.ofNat 8 (n + 2)).toNat = n + 2 := by
  rw [BitVec.toNat_ofNat]
  omega

/-- A frame with its own CRC is well-formed. -/
theorem judgeFrame_frameOf {c : Command} (extra : List Byte) (h : c.params.length ≤ 43) :
    judgeFrame (frameOf c ++ extra) = some c := by
  have hlength := lengthByte_toNat h
  obtain ⟨hi, lo, hcrc⟩ : ∃ hi lo, crcBytes (BitVec.ofNat 8 (c.params.length + 2) :: c.code :: c.tag :: c.params) =
      [hi, lo] := ⟨_, _, rfl⟩
  rw [frameOf_eq, hcrc, List.append_assoc]
  refine (judgeFrame_covered extra (by rw [hlength]; rfl) (by omega) (by omega)).trans ?_
  rw [hcrc, if_neg (not_not.2 rfl)]
  rfl

/-- A frame that is cut short is bad. -/
theorem judgeFrame_take {c : Command} {k : Nat} (h : c.params.length ≤ 43) (hk : k < (frameOf c).length) :
    judgeFrame ((frameOf c).take k) = none := by
  have hlength := lengthByte_toNat h
  cases k with
  | zero => rfl
  | succ k =>
    change judgeFrame (BitVec.ofNat 8 (c.params.length + 2) :: List.take k _) = none
    refine judgeFrame_short ?_
    have htotal : (frameOf c).length = c.params.length + 5 := by
      rw [frameOf_eq]
      simp [crcBytes]
    rw [List.length_take, hlength]
    omega

/-- Two CRC bytes are those of the bytes they cover only as the CRC itself. -/
theorem crcBytes_eq {hi lo : Byte} {covered : List Byte} (h : [hi, lo] = crcBytes covered) :
    hi.toNat * 256 + lo.toNat = (crc covered).toNat := by
  have hread : natOfBytes [hi, lo] = (crc covered).toNat := by
    rw [h, crcBytes, natOfBytes_be (crc covered).isLt]
  rw [← hread]
  simp [natOfBytes]

/-- Settles O3: the length byte, the bytes clocked and the CRC, each by its lemma. -/
theorem commandFrameJudged : Obligations.CommandFrameJudged := by
  refine ⟨fun c extra h => judgeFrame_frameOf extra h, fun c k h hk => judgeFrame_take h hk,
    fun n rest h => judgeFrame_badLength h, fun covered extra hi lo hcovered hcrc => ?_⟩
  cases covered with
  | nil => cases hcovered
  | cons n body =>
    by_cases hrange : n.toNat < 2 ∨ 45 < n.toNat
    · exact judgeFrame_badLength hrange
    · obtain ⟨hlow, hhigh⟩ : 2 ≤ n.toNat ∧ n.toNat ≤ 45 := by omega
      refine (judgeFrame_covered extra (Nat.succ.inj hcovered) hlow hhigh).trans ?_
      exact if_pos fun h => hcrc (crcBytes_eq h)

end Sys2Proof.Machine

/-! ATTACH, the negations of the reset inputs, and the three queries (R86, R114, R115, R166, R168, R171). -/

namespace Sys2Proof.Machine

open Claims

/-! ### ATTACH (R166) -/

section

variable {p : Port} {ps : List Byte} {s : State}

theorem attach_detached (h : (s.ports.get p).session = .detached) : attach p ps s =
    okay (s.putPort p { s.ports.get p with
        session := .attached, sessionNumber := (s.ports.get p).sessionNumber + 1 })
      (((s.ports.get p).sessionNumber + 1) :: be 2 (s.reports.get p).nextSequence.toNat) := by
  unfold attach
  dsimp only
  rw [h]
  rfl

theorem attach_attached (h : (s.ports.get p).session = .attached) :
    attach p ps s = ⟨s, .alreadyAttached, []⟩ := by
  unfold attach
  dsimp only
  rw [h]

end

/-- Settles O13: both states of the session. -/
theorem attachBeginsSession : Obligations.AttachBeginsSession := by
  intro p c d o s hex
  exact ⟨fun h => execution_answers hex (attach_detached h), fun h => execution_answers hex (attach_attached h)⟩

/-! ### The negations of the reset inputs (R115, R168) -/

/-- Settles O16: what each of the two changes, written out. -/
theorem resetNegations : Obligations.ResetNegations := by
  refine ⟨fun p s => rfl, fun pins s hreset => ⟨_, if_pos hreset, rfl, fun l => ?_⟩⟩
  cases l <;> rfl

/-! ### The queries (R86, R114, R171) -/

theorem queryLines_eq (p : Port) (ps : List Byte) (s : State) : queryLines p ps s =
    okay s ((EvLine.all.map fun l => portByte (s.events.lines.get l).owner) ++
      (OutLine.all.map fun o => portByte (s.events.outOwner.get o)) ++
      (EvLine.all.flatMap fun l => (s.events.lines.get l).select.code ::
        be 2 (s.events.lines.get l).compensation ++
        [BitVec.ofNat 8 (s.events.lines.get l).captures.length, BitVec.ofNat 8 (s.events.lines.get l).drops]) ++
      (match s.events.arming with
        | none => List.replicate 16 0
        | some a => [1, a.mode.code, a.line.code] ++ be 4 a.target.sec ++ be 4 a.target.ns ++
            be 4 a.guard ++ [a.port.code])) := by
  have harming : armingBytes s.events.arming = match s.events.arming with
      | none => List.replicate 16 0
      | some a => [1, a.mode.code, a.line.code] ++ be 4 a.target.sec ++ be 4 a.target.ns ++
          be 4 a.guard ++ [a.port.code] := by
    cases s.events.arming with
    | none => rfl
    | some a => simp [armingBytes, Arming.bytes_eq]
  have howners : (Line.all.map fun line => portByte (s.ownerOf line)) =
      (EvLine.all.map fun l => portByte (s.events.lines.get l).owner) ++
        (OutLine.all.map fun o => portByte (s.events.outOwner.get o)) := rfl
  rw [queryLines, harming, howners]
  rfl

section

variable {p : Port} {ps : List Byte} {s : State} {h : Handle} {e : Entry}

theorem queryEntry_badHandle (hh : handleField ps 0 = none) : queryEntry p ps s = refuse s .range := by
  unfold queryEntry
  rw [hh]

theorem queryEntry_stale (hh : handleField ps 0 = some h) (hstale : s.calendar.records[h.record].content = .free ∨
    s.calendar.records[h.record].gen ≠ h.gen) : queryEntry p ps s = refuse s .staleHandle := by
  have hnamed : s.calendar.named h = none := by
    unfold Calendar.named
    split
    · rename_i hgen
      rw [hstale.resolve_right (not_not.2 hgen)]
      rfl
    · rfl
  unfold queryEntry
  rw [hh]
  dsimp only
  rw [hnamed]

theorem queryEntry_named (hh : handleField ps 0 = some h) (hnamed : s.calendar.named h = some e) :
    queryEntry p ps s = okay s (entryBytes h.gen s.calendar.records[h.record].content e) := by
  unfold queryEntry
  rw [hh]
  dsimp only
  rw [hnamed]

end

/-- The record of an entry, field by field (Table 10-8). -/
theorem entryBytes_eq (gen : Byte) (st : EntryState) (e : Entry) : entryBytes gen st e =
    [st.codes.1, gen, e.owner.code, e.action.kindCode] ++ be 4 e.release.sec ++ be 4 e.release.ns ++
      be 4 e.sequence.toNat ++ [e.flagsByte] ++
      (match e.period with
        | some x => be 2 x.sec ++ be 4 x.ns
        | none => List.replicate 6 0) ++
      be 2 (e.remaining.getD 0) ++
      (match e.action with
        | .deliver ts h => [targetByte ts, BitVec.ofNat 8 h.record.val, h.gen] ++ List.replicate 6 0
        | .line out a => [0, 0, 0, out.code, a.code] ++ be 4 a.width) ++
      be 2 e.occurrences ++ be 2 e.missed ++ [st.codes.2] := by
  have hperiod : periodBytes e.period = match e.period with
      | some x => be 2 x.sec ++ be 4 x.ns
      | none => List.replicate 6 0 := by
    cases e.period <;> rfl
  have haction : e.action.deliverBytes ++ e.action.lineBytes = match e.action with
      | .deliver ts h => [targetByte ts, BitVec.ofNat 8 h.record.val, h.gen] ++ List.replicate 6 0
      | .line out a => [0, 0, 0, out.code, a.code] ++ be 4 a.width := by
    cases e.action <;> rfl
  rw [← hperiod, ← haction]
  simp only [entryBytes, Point.bytes, List.append_assoc]

/-- Settles O18: each query answers from the state it leaves as it stands. -/
theorem queriesChangeNothing : Obligations.QueriesChangeNothing := by
  intro p c d o s
  refine ⟨fun hex => execution_answers hex rfl, fun hex => execution_answers hex (queryLines_eq _ _ _),
    fun hex => ⟨fun hrecord => execution_answers hex (queryEntry_badHandle (handleField_eq_none.2 hrecord)),
      fun i hnames => ?_⟩⟩
  have hh := handleField_of_names hnames
  refine ⟨fun hstale => execution_answers hex (queryEntry_stale hh hstale), fun e state cause hgen hstands => ?_⟩
  refine execution_answers hex ?_
  rcases hstands with ⟨harmed, rfl, rfl⟩ | ⟨why, hfinished, rfl, rfl⟩
  · rw [queryEntry_named hh (Calendar.named_eq_some.2 ⟨hgen, .inl harmed⟩), harmed, entryBytes_eq]
    rfl
  · rw [queryEntry_named hh (Calendar.named_eq_some.2 ⟨hgen, .inr ⟨why, hfinished⟩⟩), hfinished, entryBytes_eq]
    rfl

end Sys2Proof.Machine

/-! The parts of a session end, block by block (R37, R61, R89, R108, R129, R133): each goes through a list of
records or lines, and what it leaves is told from the state in which it began. -/

namespace Sys2Proof.Machine

open Claims

/-! ### The Calendar's part (R89) -/

/-- An entry that ends with the session is ARMED, the port's own, and without KEEP. -/
theorem endsWith_iff {p : Port} {c : EntryState} :
    c.endsWith p = true ↔ ∃ e, c = .armed e ∧ e.owner = p ∧ e.keep = false := by
  cases c with
  | free => simp [EntryState.endsWith]
  | armed e => simp [EntryState.endsWith]
  | finished e cause => simp [EntryState.endsWith]

theorem endEntry_other {p : Port} {s : State} {i : RecordNo}
    (h : s.calendar.records[i].content.endsWith p = false) : endEntry p s i = s := by
  unfold endEntry
  split
  · rename_i e he
    refine if_neg fun hmine => ?_
    rw [endsWith_iff.2 ⟨e, he, hmine⟩] at h
    cases h
  · rfl

/-- The reference that an ARMED entry holds is dropped when it finishes (R51). -/
theorem finishEntry_store_named (i : RecordNo) (e : Entry) (cause : FinishCause) (s : State) :
    (finishEntry i e cause s).store =
      (messageNamed (.armed e)).toList.foldl (fun store j => store.dropReference j) s.store := by
  cases ha : e.action with
  | deliver ts h =>
    have hnamed : messageNamed (.armed e) = some h.record := by simp [messageNamed, ha]
    rw [finishEntry_store_deliver i cause s ha, hnamed]
    rfl
  | line out act =>
    have hnamed : messageNamed (.armed e) = none := by simp [messageNamed, ha]
    rw [finishEntry_store_line i cause s ha, hnamed]
    rfl

theorem endEntry_ended {p : Port} {s : State} {i : RecordNo} {e : Entry}
    (he : s.calendar.records[i].content = .armed e) (howner : e.owner = p) (hkeep : e.keep = false) :
    endEntry p s i = { s with
      store := (messageNamed s.calendar.records[i].content).toList.foldl
        (fun store j => store.dropReference j) s.store
      calendar := { s.calendar with
        records := s.calendar.records.set i ⟨s.calendar.records[i].gen, .finished e .ownerDetached⟩
        armed := s.calendar.armed.erase i
        freeRecords := s.calendar.freeRecords ++ [i] } } := by
  have hfinish : endEntry p s i = finishEntry i e .ownerDetached s := by
    unfold endEntry
    rw [he]
    exact if_pos ⟨howner, hkeep⟩
  rw [hfinish, finishEntry_eq, finishEntry_store_named, he]

/-- Those of the listed records whose entries end with the session of `p`. -/
def State.endedOf (s : State) (p : Port) (l : List RecordNo) : List RecordNo :=
  l.filter fun i => s.calendar.records[i].content.endsWith p

/-- The messages that the entries of these records name, in that order. -/
def State.messagesNamed (s : State) (l : List RecordNo) : List RecordNo :=
  l.filterMap fun i => messageNamed s.calendar.records[i].content

/-- `t` is `s` with the listed entries of `p` finished, in that order. -/
structure EndsEntries (p : Port) (l : List RecordNo) (s t : State) : Prop where
  whole : t = { s with
    store := (s.messagesNamed (s.endedOf p l)).foldl (fun store j => store.dropReference j) s.store
    calendar := { s.calendar with
      records := t.calendar.records
      armed := s.calendar.armed.diff (s.endedOf p l)
      freeRecords := s.calendar.freeRecords ++ s.endedOf p l } }
  finished : ∀ i ∈ l, ∀ e, s.calendar.records[i].content = .armed e → e.owner = p → e.keep = false →
    t.calendar.records[i] = ⟨s.calendar.records[i].gen, .finished e .ownerDetached⟩
  kept : ∀ i, i ∉ l ∨ s.calendar.records[i].content.endsWith p = false →
    t.calendar.records[i] = s.calendar.records[i]

/-- What is ended and named is told from the records themselves. -/
theorem endedOf_congr {s s' : State} {p : Port} {l : List RecordNo}
    (h : ∀ j ∈ l, s'.calendar.records[j] = s.calendar.records[j]) :
    s'.endedOf p l = s.endedOf p l ∧ s'.messagesNamed (s.endedOf p l) = s.messagesNamed (s.endedOf p l) := by
  refine ⟨List.filter_congr fun j hj => by rw [h j hj], List.filterMap_congr fun j hj => ?_⟩
  rw [h j (List.mem_of_mem_filter hj)]

theorem endsEntries_foldl (p : Port) (l : List RecordNo) (s : State) (hl : l.Nodup) :
    EndsEntries p l s (l.foldl (endEntry p) s) := by
  induction l generalizing s with
  | nil => exact ⟨by simp [State.endedOf, State.messagesNamed], nofun, fun _ _ => rfl⟩
  | cons i l ih =>
    obtain ⟨hi, hl⟩ := List.nodup_cons.1 hl
    rw [List.foldl_cons]
    cases hends : s.calendar.records[i].content.endsWith p with
    | false =>
      have hlist : s.endedOf p (i :: l) = s.endedOf p l := List.filter_cons_of_neg (Bool.not_eq_true _ ▸ hends)
      rw [endEntry_other hends]
      obtain ⟨hwhole, hfinished, hkept⟩ := ih s hl
      refine ⟨hlist ▸ hwhole, fun j hj e he howner hkeep => ?_, fun j hj => ?_⟩
      · rcases List.mem_cons.1 hj with rfl | hj
        · rw [endsWith_iff.2 ⟨e, he, howner, hkeep⟩] at hends
          cases hends
        · exact hfinished j hj e he howner hkeep
      · refine hkept j (hj.imp_left fun hnot hmem => hnot (List.mem_cons_of_mem _ hmem))
    | true =>
      obtain ⟨e, he, howner, hkeep⟩ := endsWith_iff.1 hends
      have hlist : s.endedOf p (i :: l) = i :: s.endedOf p l := List.filter_cons_of_pos hends
      have hstep := endEntry_ended he howner hkeep
      generalize endEntry p s i = s' at hstep ⊢
      have hrecords (j : RecordNo) : s'.calendar.records[j] =
          if j = i then ⟨s.calendar.records[i].gen, .finished e .ownerDetached⟩ else s.calendar.records[j] := by
        rw [hstep]
        exact Calendar.putRecord_get _ i j _
      have hother (j : RecordNo) (hj : j ≠ i) : s'.calendar.records[j] = s.calendar.records[j] := by
        rw [hrecords, if_neg hj]
      obtain ⟨hended, hnamed⟩ := endedOf_congr (p := p) fun j hj => hother j fun hji => hi (hji ▸ hj)
      obtain ⟨hwhole, hfinished, hkept⟩ := ih s' hl
      refine ⟨?_, fun j hj e' he' howner' hkeep' => ?_, fun j hj => ?_⟩
      · rw [hended, hnamed] at hwhole
        have hmessages : s.messagesNamed (i :: s.endedOf p l) =
            (messageNamed s.calendar.records[i].content).toList ++ s.messagesNamed (s.endedOf p l) := by
          unfold State.messagesNamed
          rw [List.filterMap_cons]
          cases messageNamed s.calendar.records[i].content <;> rfl
        rw [hlist, hmessages, List.foldl_append, List.diff_cons, List.append_cons]
        refine hwhole.trans ?_
        rw [hstep]
      · rcases List.mem_cons.1 hj with rfl | hj
        · obtain rfl : e = e' := EntryState.armed.inj (he.symm.trans he')
          rw [hkept j (.inl hi), hrecords, if_pos rfl]
        · have hji : j ≠ i := fun hji => hi (hji ▸ hj)
          rw [← hother j hji] at he' ⊢
          exact hfinished j hj e' he' howner' hkeep'
      · have hji : j ≠ i := by
          rintro rfl
          rcases hj with hnot | hkeeps
          · exact hnot List.mem_cons_self
          · rw [hends] at hkeeps
            cases hkeeps
        rw [← hother j hji] at hj ⊢
        exact hkept j (hj.imp_left fun hnot hmem => hnot (List.mem_cons_of_mem _ hmem))

theorem entriesEnded_endEntries (p : Port) {s : State} (hc : ArmedListComplete s.calendar) :
    EntriesEnded p s (endEntries p s) := by
  obtain ⟨harmed, -, hrecords⟩ := hc
  obtain ⟨hwhole, hfinished, hkept⟩ := endsEntries_foldl p s.calendar.armed s harmed
  have hleft : s.calendar.armed.diff (s.endedOf p s.calendar.armed) =
      s.calendar.armed.filter fun i => !s.calendar.records[i].content.endsWith p := by
    rw [harmed.sdiff_eq_filter]
    refine List.filter_congr fun i hi => ?_
    simp [State.endedOf, hi]
  rw [hleft] at hwhole
  refine ⟨hwhole, fun i => ⟨fun e he => ?_, fun h => hkept i (.inr h)⟩⟩
  exact hfinished i ((hrecords i).1.2 (by rw [he]; rfl)) e he

/-! ### The Time Authority's part (R37) -/

theorem authorityEnded_endAuthority (p : Port) (s : State) : AuthorityEnded p s (endAuthority p s) := by
  refine ⟨fun h hh hp => ?_, fun hnot => ?_⟩
  · have hloses : endAuthority p s = loseAuthority h .detached s := by
      unfold endAuthority
      rw [hh]
      exact if_pos hp
    rw [hloses]
    exact authorityLoss_loseAuthority h .detached s
  · have hdrops : endAuthority p s = dropWaiter p s := by
      unfold endAuthority
      split
      · rename_i h hh
        refine if_neg fun hp => hnot ?_
        rw [State.isHolder, hh, Option.map_some, hp]
      · rfl
    rw [hdrops]
    rfl

/-! ### The Message Store's part (R61) -/

theorem isDraftOf_iff {p : Port} {c : MessageState} : c.isDraftOf p = true ↔ ∃ m, c = .draft m ∧ m.sender = p := by
  cases c with
  | free => simp [MessageState.isDraftOf]
  | draft m => simp [MessageState.isDraftOf]
  | sealed m n => simp [MessageState.isDraftOf]

/-- Those of the listed records that are drafts of `p`. -/
def Store.draftsOf (st : Store) (p : Port) (l : List RecordNo) : List RecordNo :=
  l.filter fun i => st.records[i].content.isDraftOf p

/-- The blocks of the messages in these records, in chain order. -/
def Store.chainsOf (st : Store) (l : List RecordNo) : List BlockNo :=
  l.flatMap fun i => st.records[i].content.chain

/-- `st'` is `st` with the listed drafts of `p` freed, in that order. -/
structure EndsDrafts (p : Port) (l : List RecordNo) (st st' : Store) : Prop where
  whole : st' = { st with
    records := st'.records
    freeBlocks := st.freeBlocks ++ st.chainsOf (st.draftsOf p l)
    freeRecords := st.freeRecords ++ st.draftsOf p l
    charge := st.charge.put p (st.charge.get p - (st.chainsOf (st.draftsOf p l)).length) }
  records : ∀ i, st'.records[i] =
    if i ∈ l ∧ st.records[i].content.isDraftOf p = true then ⟨st.records[i].gen, .free⟩ else st.records[i]

theorem Store.abandonDraftAt_other {p : Port} {st : Store} {i : RecordNo}
    (h : st.records[i].content.isDraftOf p = false) : st.abandonDraftAt p i = st := by
  unfold Store.abandonDraftAt
  split
  · rename_i m hm
    refine if_neg fun hsender => ?_
    rw [isDraftOf_iff.2 ⟨m, hm, hsender⟩] at h
    cases h
  · rfl

theorem Store.abandonDraftAt_draft {p : Port} {st : Store} {i : RecordNo}
    (h : st.records[i].content.isDraftOf p = true) : st.abandonDraftAt p i = { st.putContent i .free with
      freeBlocks := st.freeBlocks ++ st.records[i].content.chain
      freeRecords := st.freeRecords ++ [i]
      charge := st.charge.put p (st.charge.get p - st.records[i].content.chain.length) } := by
  obtain ⟨m, hm, rfl⟩ := isDraftOf_iff.1 h
  unfold Store.abandonDraftAt
  rw [hm]
  exact if_pos rfl

theorem endsDrafts_foldl (p : Port) (l : List RecordNo) (st : Store) (hl : l.Nodup) :
    EndsDrafts p l st (l.foldl (Store.abandonDraftAt p) st) := by
  induction l generalizing st with
  | nil => exact ⟨by simp [Store.draftsOf, Store.chainsOf], fun i => by simp⟩
  | cons i l ih =>
    obtain ⟨hi, hl⟩ := List.nodup_cons.1 hl
    rw [List.foldl_cons]
    cases hdraft : st.records[i].content.isDraftOf p with
    | false =>
      have hlist : st.draftsOf p (i :: l) = st.draftsOf p l := List.filter_cons_of_neg (Bool.not_eq_true _ ▸ hdraft)
      rw [Store.abandonDraftAt_other hdraft]
      obtain ⟨hwhole, hrecords⟩ := ih st hl
      refine ⟨hlist ▸ hwhole, fun j => (hrecords j).trans ?_⟩
      by_cases hji : j = i
      · subst hji
        rw [hdraft]
        simp
      · simp [hji]
    | true =>
      have hlist : st.draftsOf p (i :: l) = i :: st.draftsOf p l := List.filter_cons_of_pos hdraft
      have hstep := Store.abandonDraftAt_draft hdraft
      generalize st.abandonDraftAt p i = st' at hstep ⊢
      have hrecord (j : RecordNo) : st'.records[j] =
          if j = i then ⟨st.records[i].gen, .free⟩ else st.records[j] := by
        rw [hstep]
        exact Store.putRecord_get st i j _
      have hother (j : RecordNo) (hj : j ∈ l) : st'.records[j] = st.records[j] := by
        have hji : j ≠ i := fun hji => hi (hji ▸ hj)
        rw [hrecord, if_neg hji]
      have hdrafts : st'.draftsOf p l = st.draftsOf p l := List.filter_congr fun j hj => by rw [hother j hj]
      have hchains : st'.chainsOf (st.draftsOf p l) = st.chainsOf (st.draftsOf p l) :=
        List.flatMap_congr fun j hj => by rw [hother j (List.mem_of_mem_filter hj)]
      obtain ⟨hwhole, hrecords⟩ := ih st' hl
      refine ⟨?_, fun j => (hrecords j).trans ?_⟩
      · rw [hdrafts, hchains] at hwhole
        have hblocks : st.chainsOf (i :: st.draftsOf p l) =
            st.records[i].content.chain ++ st.chainsOf (st.draftsOf p l) := List.flatMap_cons
        rw [hlist, hblocks, List.append_cons, List.length_append, ← Nat.sub_sub, ← List.append_assoc]
        refine hwhole.trans ?_
        rw [hstep]
        simp only [PerPort.get_put, PerPort.put_put]
        rfl
      · by_cases hji : j = i
        · subst hji
          rw [hrecord, if_pos rfl, hdraft, if_neg fun hj => hi hj.1, if_pos ⟨List.mem_cons_self, rfl⟩]
        · rw [hrecord, if_neg hji]
          simp [hji]

theorem draftsEnded_endDrafts (p : Port) (s : State) : DraftsEnded p s (endDrafts p s) := by
  obtain ⟨hwhole, hrecords⟩ := endsDrafts_foldl p (List.finRange 128) s.store (List.nodup_finRange 128)
  refine ⟨congrArg (fun st => { s with store := st }) hwhole, fun i => (hrecords i).trans ?_⟩
  simp only [List.mem_finRange, true_and]

/-! ### The Event Line Unit's and the Output Line Unit's parts (R129, R133) -/

/-- `t` is `s` with those of the listed lines that `p` owns released. -/
structure EndsClaims (p : Port) (lines : List Line) (s t : State) : Prop where
  whole : t = { s with
    outputs := t.outputs
    events := { s.events with lines := t.events.lines, outOwner := t.events.outOwner } }
  event : ∀ l, t.events.lines.get l = if .event l ∈ lines ∧ (s.events.lines.get l).owner = some p
    then .unclaimed (s.events.lines.get l).level else s.events.lines.get l
  owner : ∀ o, t.events.outOwner.get o = if .output o ∈ lines ∧ s.events.outOwner.get o = some p
    then none else s.events.outOwner.get o
  output : ∀ o, t.outputs.get o = if .output o ∈ lines ∧ s.events.outOwner.get o = some p
    then .idle else s.outputs.get o

/-- No align is armed on a line of `p`. -/
def State.NotArmedOn (s : State) (p : Port) : Prop :=
  ∀ a, s.events.arming = some a → (s.events.lines.get a.line).owner ≠ some p

/-- One line: released when it is the port's, with no align to cancel. -/
theorem endsClaims_endClaim {p : Port} {s : State} (line : Line) (h : s.NotArmedOn p) :
    EndsClaims p [line] s (endClaim p s line) := by
  unfold endClaim
  cases line with
  | event l =>
    by_cases howner : s.ownerOf (.event l) = some p
    · have hnone : cancelArmingOn l s = s := cancelArmingOn_other fun a ha hl => h a ha (hl ▸ howner)
      have hreleased : releaseOf (.event l) s = s.putLine l (.unclaimed (s.events.lines.get l).level) := by
        change releaseEventLine l s = _
        rw [releaseEventLine, hnone]
      rw [if_pos howner, hreleased]
      refine ⟨rfl, fun k => ?_, fun o => by simp, fun o => by simp⟩
      rw [State.putLine_events, PerEv.get_put_eq]
      by_cases hk : k = l
      · subst hk
        rw [if_pos rfl, if_pos ⟨List.mem_singleton_self _, howner⟩]
      · simp [hk]
    · rw [if_neg howner]
      refine ⟨rfl, fun k => (if_neg ?_).symm, fun o => by simp, fun o => by simp⟩
      rintro ⟨hk, hkp⟩
      obtain rfl := Line.event.inj (List.mem_singleton.1 hk)
      exact howner hkp
  | output o =>
    by_cases howner : s.ownerOf (.output o) = some p
    · rw [if_pos howner]
      change EndsClaims p [.output o] s ((s.putOut o .idle).putOutOwner o none)
      refine ⟨rfl, fun k => by simp, fun k => ?_, fun k => ?_⟩
      · rw [State.putOutOwner_events, PerOut.get_put_eq]
        by_cases hk : k = o
        · subst hk
          rw [if_pos rfl, if_pos ⟨List.mem_singleton_self _, howner⟩]
        · simp [hk]
      · rw [State.putOutOwner_outputs, State.putOut_outputs, PerOut.get_put_eq]
        by_cases hk : k = o
        · subst hk
          rw [if_pos rfl, if_pos ⟨List.mem_singleton_self _, howner⟩]
        · simp [hk]
    · rw [if_neg howner]
      have hnot (k : OutLine) : ¬ (Line.output k ∈ [Line.output o] ∧ s.events.outOwner.get k = some p) := by
        rintro ⟨hk, hkp⟩
        obtain rfl := Line.output.inj (List.mem_singleton.1 hk)
        exact howner hkp
      exact ⟨rfl, fun k => by simp, fun k => (if_neg (hnot k)).symm, fun k => (if_neg (hnot k)).symm⟩

theorem EndsClaims.notArmedOn {p : Port} {lines : List Line} {s t : State} (h : EndsClaims p lines s t)
    (hs : s.NotArmedOn p) : t.NotArmedOn p := by
  intro a ha
  have ha' : s.events.arming = some a := by rw [h.whole] at ha; exact ha
  rw [h.event]
  split
  · nofun
  · exact hs a ha'

theorem EndsClaims.trans {p : Port} {line : Line} {lines : List Line} {s t u : State} (h : EndsClaims p [line] s t)
    (k : EndsClaims p lines t u) : EndsClaims p (line :: lines) s u where
  whole := by
    have hk := k.whole
    rw [h.whole] at hk
    exact hk
  event l := by
    rw [k.event, h.event]
    by_cases hl : Line.event l = line <;> by_cases hp : (s.events.lines.get l).owner = some p <;>
      simp [hl, hp, EventLine.unclaimed]
  owner o := by
    rw [k.owner, h.owner]
    by_cases hl : Line.output o = line <;> by_cases hp : s.events.outOwner.get o = some p <;> simp [hl, hp]
  output o := by
    rw [k.output, h.output, h.owner]
    by_cases hl : Line.output o = line <;> by_cases hp : s.events.outOwner.get o = some p <;> simp [hl, hp]

theorem endsClaims_foldl {p : Port} (lines : List Line) {s : State} (h : s.NotArmedOn p) :
    EndsClaims p lines s (lines.foldl (endClaim p) s) := by
  induction lines generalizing s with
  | nil => exact ⟨rfl, fun l => by simp, fun o => by simp, fun o => by simp⟩
  | cons line lines ih =>
    have hone := endsClaims_endClaim line h
    exact hone.trans (ih (hone.notArmedOn h))

theorem claimsEnded_endClaims {p : Port} {s : State} (h : s.NotArmedOn p) : ClaimsEnded p s (endClaims p s) := by
  obtain ⟨hwhole, hevent, howner, houtput⟩ := endsClaims_foldl Line.all h
  refine ⟨hwhole, fun l => (hevent l).trans ?_, fun o => ⟨(howner o).trans ?_, (houtput o).trans ?_⟩⟩ <;>
    simp only [Line.mem_all, true_and] <;> rfl

/-! ### The Delivery Unit's part (R108) -/

theorem inboxEnded_endInbox (p : Port) (s : State) : InboxEnded p s (endInbox p s) := by
  unfold InboxEnded endInbox
  rw [flush_eq, State.putInbox, PerPort.put_put]
  rfl

end Sys2Proof.Machine

/-! The end of a session, whole (R167, R168, R169): the parts of the blocks in the order of Table 9-2, and what
they come to together. -/

namespace Sys2Proof.Machine

open Claims

/-! ### What no part of a session end touches -/

/-- A part of the end of the session of `p`: ports, times, quotas and the other ports' claims stand. -/
structure EndsPart (p : Port) (s t : State) : Prop extends LeavesPorts s t where
  time : t.time = s.time
  quota : t.store.quota = s.store.quota
  owner : ∀ q, q ≠ p → ∀ line, t.ownerOf line = some q ↔ s.ownerOf line = some q

theorem EndsPart.trans {p : Port} {a b c : State} (h : EndsPart p a b) (k : EndsPart p b c) : EndsPart p a c :=
  ⟨h.toLeavesPorts.trans k.toLeavesPorts, k.time.trans h.time, k.quota.trans h.quota,
    fun q hq line => (k.owner q hq line).trans (h.owner q hq line)⟩

/-- What leaves ports, times, quotas and the settings of the lines alone. -/
theorem endsPart_of_eq {p : Port} {s t : State} (h : LeavesPorts s t) (htime : t.time = s.time)
    (hquota : t.store.quota = s.store.quota) (hlines : t.events.lines = s.events.lines)
    (houts : t.events.outOwner = s.events.outOwner) : EndsPart p s t := by
  refine ⟨h, htime, hquota, fun q _ line => ?_⟩
  cases line with
  | event l => simp only [State.ownerOf, hlines]
  | output o => simp only [State.ownerOf, houts]

theorem Undisturbed.endsPart {p : Port} {s t : State} (h : Undisturbed s t) (hleaves : LeavesPorts s t) :
    EndsPart p s t :=
  endsPart_of_eq hleaves h.time h.quota (congrArg _ h.events) (congrArg _ h.events)

theorem endsPart_endEntries (p : Port) (s : State) : EndsPart p s (endEntries p s) := by
  refine Undisturbed.endsPart (undisturbed_foldl (fun s i => ?_) _ s) (leavesPorts_endEntries p s)
  unfold endEntry
  split
  · split
    · exact finishEntry_undisturbed ..
    · exact .refl s
  · exact .refl s

theorem endsPart_endAuthority (p : Port) (s : State) : EndsPart p s (endAuthority p s) := by
  have hleaves := leavesPorts_endAuthority p s
  obtain ⟨hloss, hother⟩ := authorityEnded_endAuthority p s
  by_cases hp : s.isHolder p
  · obtain ⟨h, hh, hport⟩ := Option.map_eq_some_iff.1 hp
    obtain ⟨⟨-, hevents, -, htime, -, hquota⟩, -⟩ := hloss h hh hport
    exact endsPart_of_eq hleaves htime hquota (by rw [hevents]) (by rw [hevents])
  · have hwhole := hother hp
    exact endsPart_of_eq hleaves (by rw [hwhole]) (by rw [hwhole]) (by rw [hwhole]) (by rw [hwhole])

theorem endsPart_endDrafts (p : Port) (s : State) : EndsPart p s (endDrafts p s) := by
  obtain ⟨hwhole, -⟩ := draftsEnded_endDrafts p s
  exact endsPart_of_eq (leavesPorts_endDrafts p s) (by rw [hwhole]) (by rw [hwhole]) (by rw [hwhole])
    (by rw [hwhole])

theorem endsPart_endClaims {p : Port} {s : State} (h : s.NotArmedOn p) : EndsPart p s (endClaims p s) := by
  obtain ⟨hwhole, hevent, hout⟩ := claimsEnded_endClaims h
  refine ⟨leavesPorts_endClaims p s, by rw [hwhole], by rw [hwhole], fun q hq line => ?_⟩
  have hne : some p ≠ some q := fun hpq => hq (Option.some.inj hpq).symm
  cases line with
  | event l =>
    simp only [State.ownerOf, hevent l]
    split
    · rename_i howner
      simp [howner, hne]
    · exact .rfl
  | output o =>
    simp only [State.ownerOf, (hout o).1]
    split
    · rename_i howner
      simp [howner, hne]
    · exact .rfl

theorem endsPart_endInbox (p : Port) (s : State) : EndsPart p s (endInbox p s) := by
  have hwhole := inboxEnded_endInbox p s
  have hquota : ((s.inboxes.get p).records.foldl (fun st x => st.dropReference x.message.record) s.store).quota =
      s.store.quota :=
    List.foldlRecOn (motive := fun st => st.quota = s.store.quota) _ _ rfl fun st hst x _ =>
      (Store.dropReference_quota st x.message.record).trans hst
  exact endsPart_of_eq (leavesPorts_endInbox p s) (by rw [hwhole]) (by rw [hwhole, hquota]) (by rw [hwhole])
    (by rw [hwhole])

/-! ### The whole end -/

/-- After the Time Authority's part no align is armed on a line of the port. -/
theorem RolesSound.notArmedOn {p : Port} {s : State} (hs : RolesSound s) (hwithout : s.authority.Without p) :
    s.NotArmedOn p := by
  obtain ⟨-, -, harming, -⟩ := hs
  intro a ha howner
  obtain ⟨hholder, hport⟩ := harming a ha
  obtain rfl : p = a.port := Option.some.inj (howner.symm.trans hport)
  obtain ⟨h, hh, hp⟩ := Option.map_eq_some_iff.1 hholder
  exact hwithout.1 h hh hp

/-- A detached port has neither authority nor a place in its queue nor a line, and holds nothing. -/
theorem SessionsSound.detached {p : Port} {s : State} (hs : SessionsSound s) (hp : ¬ s.attached p) :
    ¬ s.isHolder p ∧ (∀ w ∈ s.authority.waiters, w.port ≠ p) ∧ (∀ line ∈ Line.all, s.ownerOf line ≠ some p) ∧
      HoldsNothing s p := by
  obtain ⟨-, -, ⟨-, -, hholder, hwaiters⟩, hclaims, -, hnothing⟩ := hs
  refine ⟨fun hholds => ?_, fun w hw hwp => ?_, fun line hline howner => ?_, hnothing p (Port.mem_all p) hp⟩
  · obtain ⟨h, hh, rfl⟩ := Option.map_eq_some_iff.1 hholds
    exact hp (hholder h hh).1
  · exact hp (hwp ▸ hwaiters w hw)
  · exact hp (hclaims line hline p howner)

theorem sessionEnded_endSession {p : Port} {s : State} (hs : SessionsSound s) (hp : s.attached p) :
    SessionEnded p s (endSession p s) := by
  let s1 : State := { s with departing := some p }
  let v1 := endEntries p s1
  let v2 := endAuthority p v1
  let v3 := endDrafts p v2
  let v4 := endClaims p v3
  let v5 := endInbox p v4
  obtain ⟨-, ⟨hcomplete, -⟩, hroles⟩ := sessionsSound_iff.1 hs
  obtain ⟨-, hroles2, hwithout⟩ := endAuthority_effect p ((keeps_endEntries p s1).roles.rolesSound hroles)
  have hdrafts : KeepsRoles v2 v3 := (keeps_endDrafts p v2).roles
  have hwithout3 : v3.authority.Without p := by
    rw [hdrafts.authority]
    exact hwithout
  have hunarmed : v3.NotArmedOn p := (hdrafts.rolesSound hroles2).notArmedOn hwithout3
  have hparts : EndsPart p s1 v5 :=
    ((((endsPart_endEntries p s1).trans (endsPart_endAuthority p v1)).trans (endsPart_endDrafts p v2)).trans
      (endsPart_endClaims hunarmed)).trans (endsPart_endInbox p v4)
  have hports : v5.ports = s.ports := hparts.ports
  have hqueue : v5.reports.get p = s.reports.get p := hparts.queue p rfl
  have hwhole : endSession p s = { v5 with
      reports := v5.reports.put p ⟨[], Vector.replicate 13 true, (s.reports.get p).nextSequence, false⟩
      ports := s.ports.put p { s.ports.get p with session := .detached }
      departing := none } := by
    rw [← hports, ← hqueue]
    rfl
  have hdetached := not_attached_endSession p s
  obtain ⟨hholder, hwaiter, howns, hnothing⟩ := (sessionsSound_endSession hs hp).detached hdetached
  refine ⟨⟨v1, v2, v3, v4, v5, entriesEnded_endEntries p hcomplete, authorityEnded_endAuthority p v1,
    draftsEnded_endDrafts p v2, claimsEnded_endClaims hunarmed, inboxEnded_endInbox p v4, hwhole⟩,
    hdetached, ?_, hholder, hwaiter, howns, hnothing, ?_, ?_, ?_, fun q hq => ⟨?_, fun line _ => ?_⟩⟩
  · rw [hwhole]
    simp
  · rw [hwhole]
    simp
  · rw [hwhole]
    exact hparts.time
  · rw [hwhole]
    exact hparts.quota
  · rw [hwhole]
    exact PerPort.get_put_of_ne _ _ hq
  · rw [hwhole]
    exact hparts.owner q hq line

/-! ### The two events that end a session -/

/-- Settles O14: an attached port's DETACH is the end of its session, and its flags are clear with its queues. -/
theorem detachEndsSession : Obligations.DetachEndsSession := by
  intro p c d o s hex hs
  have hsound : SessionsSound s.settleTick := (keeps_settleTick s).sessionsSound hs
  have hattached : s.settleTick.attached p := hex.2.2.1 rfl
  have hended := sessionEnded_endSession hsound hattached
  obtain ⟨-, -, -, -, -, -, ⟨hinbox, hreports, -⟩, -⟩ := id hended
  refine ⟨endSession p s.settleTick, execution_answers hex rfl, hended, ?_, ?_,
    (portsButSession_endSession p s.settleTick).slot p⟩
  · rw [reportsFlag_eq, hreports]
    rfl
  · rw [inboxFlag_eq, hinbox]
    rfl

/-- Settles O15: the assertion empties the slot, and ends the session that an attached port has. -/
theorem portResetEndsSession : Obligations.PortResetEndsSession := by
  intro p s hs u w
  by_cases hp : s.attached p
  · have hput : Keeps u w := keeps_putPort rfl
    have hsound : SessionsSound w := hput.sessionsSound ((keeps_settleTick s).sessionsSound hs)
    have hended := sessionEnded_endSession hsound ((hput.holdings.attached p).2 hp)
    have hkept := portsButSession_endSession p w
    have hsdo : ((endSession p w).ports.get p).sdo = (w.ports.get p).sdo := by
      obtain ⟨⟨v1, v2, v3, v4, v5, -, -, -, -, -, hwhole⟩, -⟩ := id hended
      rw [hwhole]
      simp
    refine ⟨endSession p w, if_pos hp, (hkept.slot p).trans ?_, (hkept.pin p).trans ?_, hsdo.trans ?_,
      fun _ => hended, fun hnot => absurd hp hnot⟩ <;> simp [w]
  · exact ⟨w, if_neg hp, by simp [w], by simp [w], by simp [w], fun hattached => absurd hattached hp, fun _ => rfl⟩

end Sys2Proof.Machine
